-- ==== Sys2Proof/Word.lean ====
section
/-! DEFINITION. The word types of the cpu_sim CORE (spec 00_scope.md R4): the widths of a register, a
memory cell, a register selector, an ALU operand and the program counter. -/

namespace Sys2Proof

/-- A register, a data field, an immediate (R4 `XLEN`, `DATA_W`). -/
abbrev Byte := BitVec 8

/-- An ALU operand (R4 `ALU_W`). -/
abbrev Nibble := BitVec 4

/-- A register selector or an opcode (R4 `REG_SEL_W`, R71). -/
abbrev Sel := BitVec 4

/-- A memory cell, one instruction word (R4 `CELL_W`, R70). -/
abbrev Word := BitVec 16

/-- An address of the 256-cell space (R4 `ADDR_W`). -/
abbrev Addr := BitVec 8

/-- The program counter, 0 to 256 (R4 `PC_W`, R13). -/
abbrev PcWord := BitVec 9

end Sys2Proof
end

