-- ==== Sys2Proof/Syntax.lean ====
section
/-! DEFINITION. The instructions of the cpu_sim CORE, one constructor for each row of spec/opcode_table.json,
and the assembly statements of spec 30_encoding.md R77. -/

namespace Sys2Proof

/-- One constructor a row of the opcode table (R73). Every constructor keeps both fields of format F (R71),
also where the execute step ignores them: hazard detection reads `operand` whatever the opcode is (R76). -/
inductive Instr where
  | nop      (operand : Sel) (imm : Byte)
  | load     (r : Sel) (addr : Addr)
  | store    (r : Sel) (addr : Addr)
  | add      (r : Sel) (imm : Byte)
  | sub      (r : Sel) (imm : Byte)
  | mul      (r : Sel) (imm : Byte)
  | div      (r : Sel) (imm : Byte)
  | jmp      (operand : Sel) (target : Addr)
  | halt     (operand : Sel) (imm : Byte)
  /-- opcode 9 -/
  | rsvd1001 (operand : Sel) (imm : Byte)
  /-- opcodes 10 and 11; `x` is the don't-care bit of the row -/
  | rsvd101x (x : BitVec 1) (operand : Sel) (imm : Byte)
  /-- opcodes 12 to 15; `xx` are the don't-care bits of the row -/
  | rsvd11xx (xx : BitVec 2) (operand : Sel) (imm : Byte)
deriving DecidableEq, Repr

/-- The four ALU mnemonics (R77). -/
inductive AluName where
  | add | sub | mul | div
deriving DecidableEq, Repr

/-- A register name as written: `Rn`, or the token `ACC` of the document's scenario (R78). -/
inductive RegName where
  | r (n : Nat)
  | acc
deriving DecidableEq, Repr

/-- A statement of the assembly language (R77), as written: numbers are not yet checked against their
ranges, and the second register of an ALU instruction may be left out. -/
inductive Asm where
  | nop
  | load  (reg : RegName) (addr : Nat)
  | store (reg : RegName) (addr : Nat)
  | alu   (op : AluName) (rd : RegName) (rs : Option RegName)
  | jmp   (addr : Nat)
  | halt
  /-- any other mnemonic, `JZ` and `JC` among them (U2) -/
  | unknown (mnemonic : List Char)
deriving DecidableEq, Repr

end Sys2Proof
end

