-- ==== Sys2Proof/WellFormed.lean ====
section
/-! DEFINITION. Which terms of the syntax are legal. Every `Instr` is: its fields have exactly the widths of
format F, ignored fields are free (R76), and no register index of 16 or more and no address of 256 or more can
be formed (R12, R44). An assembly statement is checked (R77, R78, U2, U20). -/

namespace Sys2Proof

/-- The register index a name stands for; `ACC` is not accepted as a register name in general (R78; the listing
assembler reads it after an ADD, `Sys2Proof.Machine.resolveAcc`). -/
def RegName.index? : RegName → Option Nat
  | .r n => if n < 16 then some n else none
  | .acc => none

/-- A name of one of the registers `R0` to `R15` (R77). -/
def RegName.wellFormed (r : RegName) : Bool := r.index?.isSome

/-- An absolute address of the 256-cell space (R77, R72). -/
def addrWellFormed (a : Nat) : Bool := a < 256

/-- The second register of an ALU instruction is `(r+1) mod 16`, or is left out (R77, U20). -/
def aluPairWellFormed (rd : RegName) (rs : Option RegName) : Bool :=
  match rd.index?, rs with
  | some r, none => r < 16
  | some r, some q => q.index? == some ((r + 1) % 16)
  | none, _ => false

/-- The statements an assembler accepts (R77): it must refuse `ADD Rr,Rs` with any other `s`, and the
mnemonics that are no instruction of this hardware (R126, U2). -/
def Asm.wellFormed : Asm → Bool
  | .nop => true
  | .load r a => r.wellFormed && addrWellFormed a
  | .store r a => r.wellFormed && addrWellFormed a
  | .alu _ rd rs => aluPairWellFormed rd rs
  | .jmp a => addrWellFormed a
  | .halt => true
  | .unknown _ => false

/-- The canonical words (R76): ignored fields are 0. The reserved opcodes have no canonical word. -/
def Instr.canonical : Instr → Bool
  | .nop operand imm => operand == 0 && imm == 0
  | .load _ _ => true
  | .store _ _ => true
  | .add _ imm => imm == 0
  | .sub _ imm => imm == 0
  | .mul _ imm => imm == 0
  | .div _ imm => imm == 0
  | .jmp operand _ => operand == 0
  | .halt operand imm => operand == 0 && imm == 0
  | .rsvd1001 _ _ => false
  | .rsvd101x _ _ _ => false
  | .rsvd11xx _ _ _ => false

end Sys2Proof
end

