-- ==== Sys2Proof/Decode.lean ====
section
/-! DEFINITION. Decoding and encoding of the 16-bit instruction word (spec 30_encoding.md R70 to R76), the
opcode table of R73 as mask and pattern rows, and the two predicates of R79. -/

namespace Sys2Proof

/-- `opcode = w[15:12]` (R71, R74). -/
def opcodeOf (w : Word) : Sel := w.extractLsb' 12 4

/-- `operand = w[11:8]` (R71, R74). -/
def operandOf (w : Word) : Sel := w.extractLsb' 8 4

/-- `imm = w[7:0]` (R71, R74). -/
def immOf (w : Word) : Byte := w.extractLsb' 0 8

/-- The instruction with these three fields (R73): total, no opcode is illegal (R74, R75). -/
def instrOfFields (opcode operand : Sel) (imm : Byte) : Instr :=
  match opcode.toNat with
  | 0 => .nop operand imm
  | 1 => .load operand imm
  | 2 => .store operand imm
  | 3 => .add operand imm
  | 4 => .sub operand imm
  | 5 => .mul operand imm
  | 6 => .div operand imm
  | 7 => .jmp operand imm
  | 8 => .halt operand imm
  | 9 => .rsvd1001 operand imm
  | 10 => .rsvd101x 0#1 operand imm
  | 11 => .rsvd101x 1#1 operand imm
  | _ => .rsvd11xx (opcode.extractLsb' 0 2) operand imm

/-- `Decode(w)` (R74). -/
def decode (w : Word) : Instr := instrOfFields (opcodeOf w) (operandOf w) (immOf w)

/-- The opcode number of an instruction (R73). -/
def Instr.opcode : Instr → Sel
  | .nop _ _ => 0#4
  | .load _ _ => 1#4
  | .store _ _ => 2#4
  | .add _ _ => 3#4
  | .sub _ _ => 4#4
  | .mul _ _ => 5#4
  | .div _ _ => 6#4
  | .jmp _ _ => 7#4
  | .halt _ _ => 8#4
  | .rsvd1001 _ _ => 9#4
  | .rsvd101x x _ _ => 0b101#3 ++ x
  | .rsvd11xx xx _ _ => 0b11#2 ++ xx

/-- The 4-bit register selector field (R71). -/
def Instr.operand : Instr → Sel
  | .nop operand _ => operand
  | .load r _ => r
  | .store r _ => r
  | .add r _ => r
  | .sub r _ => r
  | .mul r _ => r
  | .div r _ => r
  | .jmp operand _ => operand
  | .halt operand _ => operand
  | .rsvd1001 operand _ => operand
  | .rsvd101x _ operand _ => operand
  | .rsvd11xx _ operand _ => operand

/-- The 8-bit immediate field (R71). -/
def Instr.imm : Instr → Byte
  | .nop _ imm => imm
  | .load _ addr => addr
  | .store _ addr => addr
  | .add _ imm => imm
  | .sub _ imm => imm
  | .mul _ imm => imm
  | .div _ imm => imm
  | .jmp _ target => target
  | .halt _ imm => imm
  | .rsvd1001 _ imm => imm
  | .rsvd101x _ _ imm => imm
  | .rsvd11xx _ _ imm => imm

/-- `IsLoad(op)` (R79). -/
def isLoadOp (opcode : Sel) : Bool := opcode == 1#4

/-- `IsAlu(op)` (R79): ADD, SUB, MUL, DIV. -/
def isAluOp (opcode : Sel) : Bool := opcode == 3#4 || opcode == 4#4 || opcode == 5#4 || opcode == 6#4

/-- The encoder: the word with the three fields of format F, opcode highest (R71). -/
def encode (i : Instr) : Word := i.opcode ++ i.operand ++ i.imm

/-- Why a sequence of bytes holds no instruction. -/
inductive DecodeError where
  /-- fewer bytes than one 16-bit word (R70) -/
  | truncated
deriving DecidableEq, Repr

/-- The two bytes of a word in the order the model's memory keeps them: data field first, then opcode and
operand. DESIGN CHOICE (assumption log 5): R46 leaves the order of the two unobservable. -/
def bytesOfWord (w : Word) : List Byte := [w.extractLsb' 0 8, w.extractLsb' 8 8]

/-- One instruction off the front of a byte sequence, and the rest: every instruction has one length (R70). -/
def decodeBytes : List Byte → Except DecodeError (Instr × List Byte)
  | low :: high :: rest => .ok (decode (high ++ low), rest)
  | _ => .error .truncated

/-- The host's question about one row of the opcode table: the instruction the decoder reads from the bits `w`
of an `nbits`-bit encoding, bits above `nbits` zero. -/
def decodeTableWord (nbits w : Nat) : Option Instr :=
  match decodeBytes (bytesOfWord (BitVec.ofNat 16 (w % 2 ^ nbits))) with
  | .ok (i, _) => some i
  | .error _ => none

/-- A row of the opcode table: the words `w` with `w &&& mask = pattern` (R73, opcode_table.json). -/
structure TableRow where
  mnemonic : String
  mask     : Word
  pattern  : Word
deriving DecidableEq, Repr

/-- The rows of opcode_table.json, in its order. -/
def opcodeTable : List TableRow :=
  [ ⟨"NOP", 0xF000, 0x0000⟩, ⟨"LOAD", 0xF000, 0x1000⟩, ⟨"STORE", 0xF000, 0x2000⟩, ⟨"ADD", 0xF000, 0x3000⟩,
    ⟨"SUB", 0xF000, 0x4000⟩, ⟨"MUL", 0xF000, 0x5000⟩, ⟨"DIV", 0xF000, 0x6000⟩, ⟨"JMP", 0xF000, 0x7000⟩,
    ⟨"HALT", 0xF000, 0x8000⟩, ⟨"RSVD", 0xF000, 0x9000⟩, ⟨"RSVD", 0xE000, 0xA000⟩, ⟨"RSVD", 0xC000, 0xC000⟩ ]

/-- The number of an instruction's row in `opcodeTable`. -/
def Instr.rowNumber : Instr → Nat
  | .nop _ _ => 0
  | .load _ _ => 1
  | .store _ _ => 2
  | .add _ _ => 3
  | .sub _ _ => 4
  | .mul _ _ => 5
  | .div _ _ => 6
  | .jmp _ _ => 7
  | .halt _ _ => 8
  | .rsvd1001 _ _ => 9
  | .rsvd101x _ _ _ => 10
  | .rsvd11xx _ _ _ => 11

/-- Does the word match the row? -/
def TableRow.matchesWord (row : TableRow) (w : Word) : Bool := (w &&& row.mask) == row.pattern

/-- The human-readable mnemonic of an opcode, a function of the opcode and no state (R20, R73). -/
def mnemonicOf (opcode : Sel) : String :=
  match opcode.toNat with
  | 0 => "NOP"
  | 1 => "LOAD"
  | 2 => "STORE"
  | 3 => "ADD"
  | 4 => "SUB"
  | 5 => "MUL"
  | 6 => "DIV"
  | 7 => "JMP"
  | 8 => "HALT"
  | _ => "RSVD"

end Sys2Proof
end

