-- ==== Sys2Proof/Config.lean ====
section
/-! DEFINITION. What is fixed for a machine: the constants of spec 00_scope.md R4 and the open parameters
`SUB_CARRY` and `MAX_CYCLES` of R5, which the model takes as arguments. -/

namespace Sys2Proof

/-- R4 `MEM_CELLS`. -/
def memCells : Nat := 256

/-- R4 `CACHE_MISS_PENALTY`. -/
def cacheMissPenalty : Nat := 5

/-- R4 `MISS_STALL`: the gate cycles a miss asks for. -/
def missStall : BitVec 3 := 4#3

/-- The sense of the carry flag after SUB (R5 `SUB_CARRY`, R92). -/
inductive SubCarry where
  /-- `C = 1` when there is no borrow -/
  | carryOut
  /-- `C = 1` when a borrow occurs -/
  | borrow
deriving DecidableEq, Repr

/-- The open parameters a run is given beside its image (R5). No step writes them. -/
structure Params where
  subCarry  : SubCarry
  maxCycles : Nat
deriving DecidableEq, Repr

/-- The values R5 names as the default of its test vectors.
DESIGN CHOICE: the spec leaves both open (assumption log 2 and 3). -/
def Params.default : Params := { subCarry := .carryOut, maxCycles := 1000 }

end Sys2Proof
end

