-- ==== Sys2Proof/Machine/State.lean ====
section
/-! DEFINITION. The state of the cpu_sim CORE, all of it (spec 10_state.md), and its value after reset (R36,
70_reset_and_hazards.md R190). Plain data throughout. -/

namespace Sys2Proof.Machine

open Sys2Proof

/-- The kind of the access that was out of bounds (R175). In this core only a fetch can be (R44, R171). -/
inductive AccessKind where
  | fetch
deriving DecidableEq, Repr

/-- The conditions of R175 that the core raises, with the information R175 says is recorded. `step` records one
in `State.fault` and answers a next state (R170, R179); no meaning and no step ends in `Host.Outcome.fault`.
Safe: the stop is the one the spec describes (assumption log 8). -/
inductive Fault where
  /-- Raised by step 4 of a cycle when the fetch address is 256 or more (R171). Safe: the spec names it. -/
  | outOfBounds (kind : AccessKind) (address : Nat)
  /-- Raised by the run loop when the cycle cap is reached (R172). Safe: the spec names it. -/
  | nonTermination (cycles : Nat)
deriving DecidableEq, Repr

/-- Reasons an instruction has no meaning. No instruction of this model is refused: every opcode has the effect
the spec gives it (R74, R75). -/
inductive Refusal where
  /-- Would be answered by an arm of `exec` whose instruction has no meaning yet; there is none. Safe. -/
  | notModelled (mnemonic : String)
deriving DecidableEq, Repr

/-- The pipeline register (R20). -/
structure PipeReg where
  valid          : Bool
  bubble         : Bool
  opcode         : Sel
  operand        : Sel
  imm            : Byte
  pc             : Addr
  isLoad         : Bool
  destReg        : Sel
  producesResult : Bool
  resultValue    : Byte
  resultReady    : Bool
  /-- step 2 has executed this instruction (R23) -/
  executed       : Bool
deriving DecidableEq, Repr

/-- `PR_EMPTY` (R22): every field 0. -/
def PipeReg.empty : PipeReg :=
  { valid := false, bubble := false, opcode := 0#4, operand := 0#4, imm := 0#8, pc := 0#8, isLoad := false,
    destReg := 0#4,    producesResult := false, resultValue := 0#8, resultReady := false, executed := false }

/-- One cache line (R24). -/
structure CacheLine where
  valid : Bool
  tag   : BitVec 5
  data  : Byte
deriving DecidableEq, Repr

/-- A line after reset (R36). -/
def CacheLine.fresh : CacheLine := { valid := false, tag := 0#5, data := 0#8 }

/-- The performance counters (R30): unbounded naturals (R6). -/
structure Counters where
  cycles           : Nat
  instructions     : Nat
  hazardStalls     : Nat
  cacheStallCycles : Nat
  flushes          : Nat
  forwards         : Nat
  cacheHits        : Nat
  cacheMisses      : Nat
deriving DecidableEq, Repr

/-- Every counter at 0 (R30, R36). -/
def Counters.zero : Counters :=
  { cycles := 0, instructions := 0, hazardStalls := 0, cacheStallCycles := 0, flushes := 0, forwards := 0,
    cacheHits := 0, cacheMisses := 0 }

/-- The per-cycle outputs (R32). They show the cycle just performed and are cleared at the start of the next.
DESIGN CHOICE, safe: kept as fields between two cycles (assumption log 10). -/
structure CycleOut where
  stalled        : Bool
  flushed        : Bool
  fwdActive      : Bool
  fwdReg         : Sel
  fwdValue       : Byte
  r0WriteIgnored : Bool
  /-- the MODEL's own: the stall `Execute(PR)` returned in this cycle (R113, R130); assumption log 9 -/
  stall          : BitVec 3
deriving DecidableEq, Repr

/-- The outputs of a cycle that sets none (R32). -/
def CycleOut.clear : CycleOut :=
  { stalled := false, flushed := false, fwdActive := false, fwdReg := 0#4, fwdValue := 0#8,
    r0WriteIgnored := false, stall := 0#3 }

/-- Memory: the bytes of the cells that are not zero, by strictly rising key. The key of the data field of cell `a`
is `2 * a`, that of its opcode and operand byte `2 * a + 1` (R46; assumption log 5). -/
abbrev Memory := List Host.Cell

/-- What a byte that is not listed reads as: a cell the loader does not fill is `0x0000` (R36, R49). -/
def unfilledByte : Byte := 0#8

/-- The state of the machine. -/
structure State where
  /-- `x[0]` to `x[15]` (R10); slot 0 is never read or written (R11) -/
  regs                : Vector Byte 16
  /-- R13 -/
  pc                  : PcWord
  /-- the zero flag (R17) -/
  z                   : Bool
  /-- the carry flag (R17) -/
  c                   : Bool
  /-- R15 -/
  halted              : Bool
  /-- memory address register (R16) -/
  mar                 : Byte
  /-- memory data register (R16) -/
  mdr                 : Byte
  /-- forwarding enabled (R3, R18) -/
  fwdEn               : Bool
  /-- cache enabled (R3, R18) -/
  cacheEn             : Bool
  /-- gate cycles still owed (R19) -/
  cacheStallRemaining : BitVec 3
  /-- the sticky condition (R33, R170) -/
  fault               : Option Fault
  /-- the performance counters (R30) -/
  ctr                 : Counters
  /-- the pipeline register (R20) -/
  pr                  : PipeReg
  /-- the cache lines (R24) -/
  lines               : Vector CacheLine 8
  /-- the unified memory (R34, R40) -/
  mem                 : Memory
  /-- the per-cycle outputs (R32) -/
  out                 : CycleOut
  /-- the open parameters of R5, arguments of the model that no step writes (R35) -/
  params              : Params
deriving DecidableEq, Repr

/-- `Reset(fwd_en, cache_en, IMAGE)` (R190) with the open parameters of R5: every field at the value of R36.
It takes no earlier state, so nothing can leak from one run into the next (R191). -/
def State.resetWith (fwdEn cacheEn : Bool) (image : Memory) (params : Params) : State :=
  { regs := Vector.replicate 16 0#8
    pc := 0#9
    z := false
    c := false
    halted := false
    mar := 0#8
    mdr := 0#8
    fwdEn := fwdEn
    cacheEn := cacheEn
    cacheStallRemaining := 0#3
    fault := none
    ctr := Counters.zero
    pr := PipeReg.empty
    lines := Vector.replicate 8 CacheLine.fresh
    mem := image
    out := CycleOut.clear
    params := params }

/-- The machine right after reset, with the empty image. DESIGN CHOICE, unsafe: the configuration pair
(no-optimization, assumption log 1) and the parameters (logs 2 and 3); for the image see log 4. -/
def State.reset : State := State.resetWith false false [] Params.default

end Sys2Proof.Machine
end

