-- ==== Sys2Proof/Machine/Ops.lean ====
section
/-! DEFINITION. The named operations every meaning is built from: the bytes and cells of memory, the register
file, the cache, the pipeline register, raising a condition. -/

namespace Sys2Proof.Machine

open Sys2Proof

/-! ## Bytes of memory -/

/-- The byte listed under a key, or what an unlisted byte reads as (R36, R49). -/
def Memory.readKey (m : Memory) (k : Nat) : Byte :=
  match m with
  | [] => unfilledByte
  | (j, v) :: rest => if j = k then v else readKey rest k

/-- The list without the entries of one key. -/
def Memory.eraseKey (m : Memory) (k : Nat) : Memory :=
  match m with
  | [] => []
  | (j, v) :: rest => if j = k then eraseKey rest k else (j, v) :: eraseKey rest k

/-- An entry put before the first larger key. -/
def Memory.insertKey (m : Memory) (k : Nat) (v : Byte) : Memory :=
  match m with
  | [] => [(k, v)]
  | (j, w) :: rest => if k < j then (k, v) :: (j, w) :: rest else (j, w) :: insertKey rest k v

/-- One byte written; a byte equal to what an unlisted one reads as is not listed. -/
def Memory.writeKey (m : Memory) (k : Nat) (v : Byte) : Memory :=
  if v = unfilledByte then Memory.eraseKey m k else Memory.insertKey (Memory.eraseKey m k) k v

/-- Every key of the list is larger than `k`, and below the end of the 256 cells. -/
def Memory.keysFrom (k : Nat) (m : Memory) : Bool :=
  match m with
  | [] => true
  | (j, v) :: rest => k ≤ j && j < 2 * memCells && v != unfilledByte && keysFrom (j + 1) rest

/-- The canonical form: keys strictly rising, inside the 256 cells (R40), and no entry equal to what an unlisted
byte reads as. Equal memories are then equal lists. -/
def Memory.wf (m : Memory) : Bool := Memory.keysFrom 0 m

/-! ## Cells (R40 to R44) -/

/-- The key of the data field, bits [7:0], of a cell. -/
def dataKey (a : Addr) : Nat := 2 * a.toNat

/-- The key of the opcode and operand byte, bits [15:8], of a cell. -/
def codeKey (a : Addr) : Nat := 2 * a.toNat + 1

/-- `Mem[a]`, 16 bits (R40). -/
def cellAt (m : Memory) (a : Addr) : Word := Memory.readKey m (codeKey a) ++ Memory.readKey m (dataKey a)

/-- `MemFetch` (R41): the whole cell, or none where no cell is: at 256 (R44, R171), and above (assumption log 11).
A fetch never goes through the cache (R56). -/
def memFetch (m : Memory) (pc : PcWord) : Option Word :=
  if 256 ≤ pc.toNat then none else some (cellAt m (pc.setWidth 8))

/-- `MemRead(a, 1)` (R42): the data field. -/
def memRead (m : Memory) (a : Addr) : Byte := Memory.readKey m (dataKey a)

/-- `MemWrite(a, 1, v)` (R43): the data field; bits [15:8] stay. -/
def memWrite (m : Memory) (a : Addr) (v : Byte) : Memory := Memory.writeKey m (dataKey a) v

/-- A whole cell placed from outside, before a run (R192). No step does this (R43). -/
def placeCell (m : Memory) (a : Addr) (w : Word) : Memory :=
  Memory.writeKey (Memory.writeKey m (codeKey a) (w.extractLsb' 8 8)) (dataKey a) (w.extractLsb' 0 8)

/-! ## Registers (R10, R11) -/

/-- `x[r]`: register 0 reads 0 (R11). -/
def readReg (s : State) (r : Sel) : Byte :=
  if r = 0#4 then 0#8 else s.regs[r.toNat]'(by have := r.isLt; omega)

/-- `x[r] <- v`: a write to register 0 changes no register and sets `r0_write_ignored` (R11). -/
def writeReg (s : State) (r : Sel) (v : Byte) : State :=
  { s with
    regs := if r = 0#4 then s.regs else s.regs.set r.toNat v (by have := r.isLt; omega)
    out := { s.out with r0WriteIgnored := s.out.r0WriteIgnored || r == 0#4 } }

/-- `mar <- ea` (R16). -/
def setMar (s : State) (ea : Addr) : State := { s with mar := ea }

/-- `mdr <- d` (R16). -/
def setMdr (s : State) (d : Byte) : State := { s with mdr := d }

/-- `Z <- z; C <- c` (R17, R95). -/
def setFlags (s : State) (z c : Bool) : State := { s with z := z, c := c }

/-! ## The cache (R24, R50 to R54) -/

/-- `index(a) = a[2:0]` (R52). -/
def cacheIndex (a : Addr) : BitVec 3 := a.extractLsb' 0 3

/-- `tag(a) = a[7:3]` (R52). -/
def cacheTag (a : Addr) : BitVec 5 := a.extractLsb' 3 5

/-- `line[i]` (R24). -/
def lineAt (s : State) (i : BitVec 3) : CacheLine := s.lines[i.toNat]'(by have := i.isLt; omega)

/-- `line[i] <- l`. -/
def setLine (s : State) (i : BitVec 3) (l : CacheLine) : State :=
  { s with lines := s.lines.set i.toNat l (by have := i.isLt; omega) }

/-- `hit(a)` (R52). -/
def cacheHit (s : State) (a : Addr) : Bool :=
  (lineAt s (cacheIndex a)).valid && (lineAt s (cacheIndex a)).tag == cacheTag a

/-- `cache_hits <- cache_hits + 1` (R53). -/
def countHit (s : State) : State := { s with ctr := { s.ctr with cacheHits := s.ctr.cacheHits + 1 } }

/-- `cache_misses <- cache_misses + 1; cache_stall_cycles <- cache_stall_cycles + 4` (R53). -/
def countMiss (s : State) : State :=
  { s with ctr := { s.ctr with
      cacheMisses := s.ctr.cacheMisses + 1
      cacheStallCycles := s.ctr.cacheStallCycles + missStall.toNat } }

/-- The write of a line by a miss or a write (R50, R51): valid, the address's tag, the byte. -/
def fillLine (s : State) (a : Addr) (d : Byte) : State :=
  setLine s (cacheIndex a) { valid := true, tag := cacheTag a, data := d }

/-- What an access returns: the state after it, the byte, whether the cache held it (false where the cache is not
consulted), and the stall it asks for (R50, R51, R113). -/
structure Access where
  state : State
  data  : Byte
  hit   : Bool
  stall : BitVec 3
deriving DecidableEq, Repr

/-- `CacheRead(a)` (R50). -/
def cacheRead (s : State) (a : Addr) : Access :=
  if cacheHit s a then
    { state := countHit s, data := (lineAt s (cacheIndex a)).data, hit := true, stall := 0#3 }
  else
    { state := countMiss (fillLine s a (memRead s.mem a)), data := memRead s.mem a, hit := false, stall := missStall }

/-- `Mem[a][7:0] <- v` on the state's memory (R43). -/
def storeByte (s : State) (a : Addr) (v : Byte) : State := { s with mem := memWrite s.mem a v }

/-- `CacheWrite(a, v)` (R51): write-through always; a hit updates the line's data, a miss allocates the line. -/
def cacheWrite (s : State) (a : Addr) (v : Byte) : Access :=
  if cacheHit s a then
    { state := countHit (setLine (storeByte s a v) (cacheIndex a) { lineAt s (cacheIndex a) with data := v }),
      data := v, hit := true, stall := 0#3 }
  else
    { state := countMiss (fillLine (storeByte s a v) a v), data := v, hit := false, stall := missStall }

/-- The data read of LOAD: through the cache, or directly when it is off (R110, R54). -/
def dataRead (s : State) (a : Addr) : Access :=
  if s.cacheEn then cacheRead s a else { state := s, data := memRead s.mem a, hit := false, stall := 0#3 }

/-- The data write of STORE: through the cache, or directly when it is off (R111, R54). -/
def dataWrite (s : State) (a : Addr) (v : Byte) : Access :=
  if s.cacheEn then cacheWrite s a v else { state := storeByte s a v, data := v, hit := false, stall := 0#3 }

/-! ## The pipeline register (R20 to R22) -/

/-- `PR_BUBBLE` (R22): every field 0 except `bubble`. -/
def PipeReg.bubbled : PipeReg := { PipeReg.empty with bubble := true }

/-- `Latch(w, a)` (R22). -/
def latch (w : Word) (a : Addr) : PipeReg :=
  { valid := true, bubble := false, opcode := opcodeOf w, operand := operandOf w, imm := immOf w, pc := a,
    isLoad := isLoadOp (opcodeOf w), destReg := operandOf w, producesResult := false, resultValue := 0,
    resultReady := false, executed := false }

/-- The instruction the pipeline register holds (R132: its fields, never memory). -/
def PipeReg.instr (p : PipeReg) : Instr := instrOfFields p.opcode p.operand p.imm

/-- `PR.produces_result <- 1; PR.result_value <- v; PR.result_ready <- 1` (R90, R110). -/
def markResult (s : State) (v : Byte) : State :=
  { s with pr := { s.pr with producesResult := true, resultValue := v, resultReady := true } }

/-- `return n` of the execute step: the stall handed to the controller (R113, R130 step 2). -/
def returnStall (s : State) (n : BitVec 3) : State := { s with out := { s.out with stall := n } }

/-! ## Control (R120, R121) -/

/-- `pc <- zext_9(imm)`, the flush of a taken jump, `PR.valid <- 0` (R120). -/
def jumpTo (s : State) (target : Addr) : State :=
  { s with
    pc := target.setWidth 9
    out := { s.out with flushed := true }
    ctr := { s.ctr with flushes := s.ctr.flushes + 1 }
    pr := { s.pr with valid := false } }

/-- `halted <- 1` (R121). -/
def setHalted (s : State) : State := { s with halted := true }

/-! ## Conditions (R170)

Raising a condition is all there is of taking an exception here: no register is saved, no mode changes, control
goes nowhere, and there is no return (R179, R180, R185); only reset clears the field. -/

/-- `raise`: the sticky field set, everything done before it kept (R170, R33). -/
def raise (c : Fault) (s : State) : State := { s with fault := some c }

/-- The numeric code of a condition (R175). -/
def Fault.code : Fault → Nat
  | .outOfBounds _ _ => 1
  | .nonTermination _ => 2

/-- `Terminated` (R150): halted and drained. A faulted state is not terminated (R150, R170). -/
def terminated (s : State) : Bool := s.halted && !s.pr.valid && s.fault.isNone

end Sys2Proof.Machine
end

