-- ==== Sys2Proof/Machine/Operands.lean ====
section
/-! DEFINITION. How the ALU instructions take their operands and leave their result (spec 40_alu.md R90, R97), and
the result functions of R91 to R94. The ALU is stateless apart from the flags (R96). -/

namespace Sys2Proof.Machine

open Sys2Proof

/-- The implicit second source `(r + 1) mod 16` (R72, R90). -/
def secondSource (r : Sel) : Sel := r + 1#4

/-- Bits [3:0] of a register, all the ALU sees of it (R90). -/
def lowNibble (v : Byte) : Nibble := v.extractLsb' 0 4

/-- The first operand `a <- x[r][3:0]` (R90). -/
def operandA (s : State) (r : Sel) : Nibble := lowNibble (readReg s r)

/-- The second operand `b <- x[(r+1) mod 16][3:0]` (R90). -/
def operandB (s : State) (r : Sel) : Nibble := lowNibble (readReg s (secondSource r))

/-- `zext_8(res4)` (R97). -/
def widen (res4 : Nibble) : Byte := res4.setWidth 8

/-- ADD: `(a + b) mod 16` (R91). -/
def aluAdd (a b : Nibble) : Nibble := BitVec.ofNat 4 ((a.toNat + b.toNat) % 16)

/-- SUB: `(a - b) mod 16` (R92). -/
def aluSub (a b : Nibble) : Nibble := BitVec.ofInt 4 (((a.toNat : Int) - (b.toNat : Int)) % 16)

/-- MUL: the signed product `s4(a) * s4(b)`, 8 bits of two's complement (R93). -/
def aluMul (a b : Nibble) : Byte := BitVec.ofInt 8 (a.toInt * b.toInt)

/-- The quotient of DIV before narrowing: 0 for a zero divisor, else rounded toward zero (R94). -/
def divQuotient (a b : Nibble) : Int := if b.toInt = 0 then 0 else a.toInt.tdiv b.toInt

/-- The remainder of DIV, computed and discarded (R94). -/
def divRemainder (a b : Nibble) : Int := if b.toInt = 0 then 0 else a.toInt - divQuotient a b * b.toInt

/-- DIV: `q mod 16` (R94). -/
def aluDiv (a b : Nibble) : Nibble := BitVec.ofInt 4 (divQuotient a b)

/-- The result write common to the four: `x[r] <- res`, the result fields of PR, `return 0` (R90). -/
def writeResult (s : State) (r : Sel) (res : Byte) : State :=
  returnStall (markResult (writeReg s r res) res) 0#3

end Sys2Proof.Machine
end

