-- ==== Sys2Proof/Machine/Flags.lean ====
section
/-! DEFINITION. The flag computations (spec 10_state.md R17, 40_alu.md R91, R92, R95). Only ADD and SUB write
flags; MUL, DIV and every other instruction leave them. -/

namespace Sys2Proof.Machine

open Sys2Proof

/-- `Z <- (res4 = 0)` (R95). PRESUMED: the spec marks the definition as general knowledge (assumption log 13). -/
def zeroFlag (res4 : Nibble) : Bool := res4 == 0#4

/-- `C <- (a + b >= 16)` (R91). -/
def addCarry (a b : Nibble) : Bool := 16 ≤ a.toNat + b.toNat

/-- The carry after SUB in the sense of the parameter `SUB_CARRY` (R92, R5). -/
def subCarryFlag (sense : SubCarry) (a b : Nibble) : Bool :=
  match sense with
  | .carryOut => b.toNat ≤ a.toNat
  | .borrow => a.toNat < b.toNat

end Sys2Proof.Machine
end

