-- ==== Sys2Proof/Machine/Alu.lean ====
section
/-! DEFINITION. The meanings of ADD, SUB, MUL and DIV (spec 40_alu.md R90 to R97): the execute step of each. -/

namespace Sys2Proof.Machine

open Sys2Proof

/-- ADD (R91): both registers are read before the write; Z and C are written also when `r = 0` (R95). -/
def execAdd (r : Sel) (_imm : Byte) (s : State) : Host.Outcome State Fault Refusal :=
  .next (setFlags (writeResult s r (widen (aluAdd (operandA s r) (operandB s r))))
    (zeroFlag (aluAdd (operandA s r) (operandB s r))) (addCarry (operandA s r) (operandB s r)))

/-- SUB (R92). -/
def execSub (r : Sel) (_imm : Byte) (s : State) : Host.Outcome State Fault Refusal :=
  .next (setFlags (writeResult s r (widen (aluSub (operandA s r) (operandB s r))))
    (zeroFlag (aluSub (operandA s r) (operandB s r)))
    (subCarryFlag s.params.subCarry (operandA s r) (operandB s r)))

/-- MUL (R93): the 8-bit product is written whole; no flag. -/
def execMul (r : Sel) (_imm : Byte) (s : State) : Host.Outcome State Fault Refusal :=
  .next (writeResult s r (aluMul (operandA s r) (operandB s r)))

/-- DIV (R94): the quotient is written, the remainder dropped; no flag, no exception. -/
def execDiv (r : Sel) (_imm : Byte) (s : State) : Host.Outcome State Fault Refusal :=
  .next (writeResult s r (widen (aluDiv (operandA s r) (operandB s r))))

end Sys2Proof.Machine
end

