-- ==== Sys2Proof/Machine/Control.lean ====
section
/-! DEFINITION. The meanings of JMP, HALT, NOP and the reserved opcodes (spec 42_control_system.md R120 to R123): the
execute step of each. -/

namespace Sys2Proof.Machine

open Sys2Proof

/-- NOP (R122): `return 0`. -/
def execNop (_operand : Sel) (_imm : Byte) (s : State) : Host.Outcome State Fault Refusal :=
  .next (returnStall s 0#3)

/-- JMP (R120): unconditional, absolute; the operand field is not read. -/
def execJmp (_operand : Sel) (target : Addr) (s : State) : Host.Outcome State Fault Refusal :=
  .next (returnStall (jumpTo s target) 0#3)

/-- HALT (R121). The halted path that follows is the controller's (R134). -/
def execHalt (_operand : Sel) (_imm : Byte) (s : State) : Host.Outcome State Fault Refusal :=
  .next (returnStall (setHalted s) 0#3)

/-- RSVD, opcode 9 (R123): exactly like NOP. -/
def execRsvd1001 (_operand : Sel) (_imm : Byte) (s : State) : Host.Outcome State Fault Refusal :=
  .next (returnStall s 0#3)

/-- RSVD, opcodes 10 and 11 (R123): exactly like NOP. -/
def execRsvd101x (_x : BitVec 1) (_operand : Sel) (_imm : Byte) (s : State) : Host.Outcome State Fault Refusal :=
  .next (returnStall s 0#3)

/-- RSVD, opcodes 12 to 15 (R123): exactly like NOP. -/
def execRsvd11xx (_xx : BitVec 2) (_operand : Sel) (_imm : Byte) (s : State) : Host.Outcome State Fault Refusal :=
  .next (returnStall s 0#3)

end Sys2Proof.Machine
end

