-- ==== Sys2Proof/Machine/LoadStore.lean ====
section
/-! DEFINITION. The meanings of LOAD and STORE (spec 41_load_store.md R110 to R113): the execute step of each. The
effective address is the immediate (R112). -/

namespace Sys2Proof.Machine

open Sys2Proof

/-- What LOAD does with the access it made: `mdr`, the register, the result fields of PR, the stall (R110). -/
def finishLoad (r : Sel) (acc : Access) : State :=
  returnStall (markResult (writeReg (setMdr acc.state acc.data) r acc.data) acc.data) acc.stall

/-- LOAD (R110). -/
def execLoad (r : Sel) (addr : Addr) (s : State) : Host.Outcome State Fault Refusal :=
  .next (finishLoad r (dataRead (setMar s addr) addr))

/-- STORE (R111): memory holds the byte from this step on; PR produces no result. -/
def execStore (r : Sel) (addr : Addr) (s : State) : Host.Outcome State Fault Refusal :=
  .next (returnStall (dataWrite (setMdr (setMar s addr) (readReg s r)) addr (readReg s r)).state
    (dataWrite (setMdr (setMar s addr) (readReg s r)) addr (readReg s r)).stall)

end Sys2Proof.Machine
end

