-- ==== Sys2Proof/Machine/Dispatch.lean ====
section
/-! DEFINITION. `Execute(PR)`: one arm a constructor, one meaning an arm (spec 43_pipeline_cycle.md R132). -/

namespace Sys2Proof.Machine

open Sys2Proof

def exec (i : Instr) (s : State) : Host.Outcome State Fault Refusal :=
  match i with
  | .nop operand imm => Sys2Proof.Machine.execNop operand imm s
  | .load r addr => Sys2Proof.Machine.execLoad r addr s
  | .store r addr => Sys2Proof.Machine.execStore r addr s
  | .add r imm => Sys2Proof.Machine.execAdd r imm s
  | .sub r imm => Sys2Proof.Machine.execSub r imm s
  | .mul r imm => Sys2Proof.Machine.execMul r imm s
  | .div r imm => Sys2Proof.Machine.execDiv r imm s
  | .jmp operand target => Sys2Proof.Machine.execJmp operand target s
  | .halt operand imm => Sys2Proof.Machine.execHalt operand imm s
  | .rsvd1001 operand imm => Sys2Proof.Machine.execRsvd1001 operand imm s
  | .rsvd101x x operand imm => Sys2Proof.Machine.execRsvd101x x operand imm s
  | .rsvd11xx xx operand imm => Sys2Proof.Machine.execRsvd11xx xx operand imm s

end Sys2Proof.Machine
end

