-- ==== Sys2Proof/Machine/Cycle.lean ====
section
/-! DEFINITION. `Cycle()`, the whole transition of the pipeline controller, step by step (spec
43_pipeline_cycle.md R130 to R141), and the run loop around it (R150, R151). -/

namespace Sys2Proof.Machine

open Sys2Proof

/-- The start of every cycle (R130): `cycles + 1`, the per-cycle outputs cleared (R32). -/
def beginCycle (s : State) : State :=
  { s with ctr := { s.ctr with cycles := s.ctr.cycles + 1 }, out := CycleOut.clear }

/-- Step 1 of a cycle that finds a stall outstanding: the gate (R131). -/
def gateCycle (s : State) : State := { s with cacheStallRemaining := s.cacheStallRemaining - 1#3 }

/-- The clear of the result-ready fields at the start of the execute step (R132, R21). -/
def clearReady (s : State) : State := { s with pr := { s.pr with producesResult := false, resultReady := false } }

/-- `PR.executed <- 1; instructions <- instructions + 1` (R130 step 2, R132). -/
def retire (s : State) : State :=
  { s with pr := { s.pr with executed := true }, ctr := { s.ctr with instructions := s.ctr.instructions + 1 } }

/-- Does PR hold an instruction that is to execute (R130 step 2, R23)? -/
def toExecute (s : State) : Bool := s.pr.valid && !s.pr.executed

/-- A change of the state made where a step goes on. -/
def onNext (o : Host.Outcome State Fault Refusal) (f : State → State) : Host.Outcome State Fault Refusal :=
  match o with
  | .next t => .next (f t)
  | .fault r => .fault r
  | .refused r => .refused r

/-- Step 2 (R132): the instruction in PR executes once; an empty PR, a bubble and an instruction that has
executed already (R23) do nothing. -/
def executeStep (s : State) : Host.Outcome State Fault Refusal :=
  if toExecute s then onNext (exec s.pr.instr (clearReady s)) retire else .next s

/-- Step 3 of a cycle whose execute step returned a stall (R133). -/
def recordStall (s : State) : State := { s with cacheStallRemaining := s.out.stall }

/-- The halted path (R134): PR emptied, nothing fetched. -/
def drain (s : State) : State := { s with pr := PipeReg.empty }

/-- Is the register in the `need` of the next instruction word (R136)? Its operand field whatever its opcode is,
and for an ALU opcode the implicit second source too. -/
def needs (w : Word) (q : Sel) : Bool :=
  q == operandOf w || (isAluOp (opcodeOf w) && q == secondSource (operandOf w))

/-- The hazard condition (R136). -/
def hazard (s : State) (w : Word) : Bool := s.pr.valid && s.pr.isLoad && needs w s.pr.destReg

/-- `Forward(req)` (R138). -/
def forward (s : State) (req : Sel) : Option Byte :=
  if s.fwdEn && s.pr.valid && s.pr.producesResult && s.pr.resultReady && s.pr.destReg == req then
    some s.pr.resultValue
  else none

/-- A hazard resolved by forwarding (R137): counted and shown; the value is reported, never consumed (R165). -/
def recordForward (s : State) (v : Byte) : State :=
  { s with
    ctr := { s.ctr with forwards := s.ctr.forwards + 1 }
    out := { s.out with fwdActive := true, fwdReg := s.pr.destReg, fwdValue := v } }

/-- A hazard resolved by a stall (R139): PR becomes a bubble. -/
def insertBubble (s : State) : State :=
  { s with
    pr := PipeReg.bubbled
    ctr := { s.ctr with hazardStalls := s.ctr.hazardStalls + 1 }
    out := { s.out with stalled := true } }

/-- Step 4 after the fetch (R136, R137). -/
def resolveHazard (s : State) (w : Word) : State :=
  if hazard s w then
    match forward s s.pr.destReg with
    | some v => recordForward s v
    | none => insertBubble s
  else s

/-- The latch of step 5 (R140): the word read from `pc`, then `pc + 1`. -/
def latchNext (s : State) (w : Word) : State :=
  { s with pr := latch w (s.pc.setWidth 8), pc := s.pc + 1#9 }

/-- Step 5 (R140): skipped only on a stall (R139). -/
def advance (s : State) (w : Word) : State := if s.out.stalled then s else latchNext s w

/-- Steps 4 and 5: one fetch serves both (R135; assumption log 15). Where there is no cell the fetch raises
`OutOfBounds`, with everything done so far kept (R171). -/
def fetchSteps (s : State) : State :=
  match memFetch s.mem s.pc with
  | none => raise (.outOfBounds .fetch s.pc.toNat) s
  | some w => advance (resolveHazard s w) w

/-- Steps 3 to 6 (R130, R133, R134). -/
def finishCycle (s : State) : State :=
  if s.out.stall ≠ 0#3 then recordStall s
  else if s.halted then drain s
  else fetchSteps s

/-- A cycle after its start: steps 1 to 6 (R130). -/
def cycleBody (s : State) : Host.Outcome State Fault Refusal :=
  if s.cacheStallRemaining ≠ 0#3 then .next (gateCycle s) else onNext (executeStep s) finishCycle

/-- `Cycle()` (R130). -/
def cycle (s : State) : Host.Outcome State Fault Refusal := cycleBody (beginCycle s)

/-- A state with no transition: terminated (R150) or faulted (R170). -/
def stuck (s : State) : Bool := terminated s || s.fault.isSome

/-- One round of the run loop (R151): a terminated or faulted state stays as it is, `cycles` included (U19,
assumption log 7); at the cap `NonTermination` is raised between cycles (R172, R178); else one `Cycle()`. -/
def runLoopStep (s : State) : Host.Outcome State Fault Refusal :=
  if stuck s then .next s
  else if s.params.maxCycles ≤ s.ctr.cycles then .next (raise (.nonTermination s.ctr.cycles) s)
  else cycle s

/-- The state with the word `w` in the pipeline register, latched from cell `a` (R22, R140): the cell holds the
word and `pc` is past it. The countdown, the fault and the cap stand so that the very next step executes it. -/
def stageWord (s : State) (a : Addr) (w : Word) : State :=
  { s with
    mem := placeCell s.mem a w
    pr := latch w a
    pc := a.setWidth 9 + 1#9
    cacheStallRemaining := 0#3
    fault := none
    params := { s.params with maxCycles := max s.params.maxCycles (s.ctr.cycles + 1) } }

end Sys2Proof.Machine
end

