-- ==== Sys2Proof/Machine/Step.lean ====
section
/-! DEFINITION. One step of the machine, a run, and the host's way to place an instruction. -/

namespace Sys2Proof.Machine

open Sys2Proof

/-- One step: one round of the run loop (spec 43_pipeline_cycle.md R151), which is one `Cycle()` (R2, R130) wherever
a cycle may be performed. Assumption log 6. -/
def step (s : State) : Host.Outcome State Fault Refusal := runLoopStep s

/-- `k` steps, stopping at the first that does not go on. -/
def stepN : Nat → State → Host.Outcome State Fault Refusal
  | 0, s => .next s
  | k + 1, s =>
    match step s with
    | .next t => stepN k t
    | .fault r => .fault r
    | .refused r => .refused r

/-- `Run(fwd_en, cache_en, IMAGE, MAX_CYCLES)` (R151). At most `MAX_CYCLES` cycles are performed, and one more
round raises `NonTermination` where the run has not ended, so this many rounds reach the end of every run. -/
def run (fwdEn cacheEn : Bool) (image : Memory) (params : Params) : Host.Outcome State Fault Refusal :=
  stepN (params.maxCycles + 1) (State.resetWith fwdEn cacheEn image params)

/-- The state in which the given instruction is the one the next step executes: it stands in the pipeline
register as latched from the cell at `pc`, and in that cell; bits above `nbits` are 0. This stands for the loading
of the image (R192) and the first cycle, which only fetches (R193); assumption log 4. -/
def State.withFetchWord (s : State) (nbits w : Nat) : State :=
  stageWord s (s.pc.setWidth 8) (BitVec.ofNat 16 (w % 2 ^ nbits))

end Sys2Proof.Machine
end

