-- ==== Sys2Proof/Machine/Assembler.lean ====
section
/-! DEFINITION. The assembler of spec 30_encoding.md R77 and R78: from an assembly statement to its instruction
and word, and from the characters of a statement to the statement. -/

namespace Sys2Proof.Machine

open Sys2Proof

/-! ## From statements to instructions -/

/-- The canonical instruction of an ALU mnemonic: the ignored immediate is 0 (R76, R77). -/
def aluInstr (op : AluName) (r : Sel) : Instr :=
  match op with
  | .add => .add r 0
  | .sub => .sub r 0
  | .mul => .mul r 0
  | .div => .div r 0

/-- The instruction a legal statement stands for (R77). -/
def asmInstr (a : Asm) : Option Instr :=
  match a with
  | .nop => some (.nop 0 0)
  | .load r addr => r.index?.map fun n => .load (BitVec.ofNat 4 n) (BitVec.ofNat 8 addr)
  | .store r addr => r.index?.map fun n => .store (BitVec.ofNat 4 n) (BitVec.ofNat 8 addr)
  | .alu op rd _ => rd.index?.map fun n => aluInstr op (BitVec.ofNat 4 n)
  | .jmp addr => some (.jmp 0 (BitVec.ofNat 8 addr))
  | .halt => some (.halt 0 0)
  | .unknown _ => none

/-- The assembler: it refuses a statement that is not legal (R77, U2, U20). -/
def assemble (a : Asm) : Option Instr := if a.wellFormed then asmInstr a else none

/-- The word of a statement (R77). -/
def assembleWord (a : Asm) : Option Word := (assemble a).map encode

/-! ## `ACC` (R78 (b), D24)

The token stands for "the register that holds the result of the preceding ADD". It is no register name in general: R78
gives it that meaning in the document's `ADD R1,R2; STORE ACC,0x82`, which is a STORE right after an ADD. DESIGN CHOICE,
safe (assumption log 16): it is read in a STORE whose preceding statement is a legal ADD, with any register but R0 (which
holds no result, R11) and any address, and refused everywhere else. -/

/-- The register that holds the result of this statement, where it is a legal ADD (R78 (b)). -/
def sumRegister (a : Asm) : Option Sel :=
  match assemble a with
  | some (.add r _) => if r = 0#4 then none else some r
  | _ => none

/-- A statement with `ACC` in a STORE read as the register `acc` (R78 (b)), where there is one. -/
def resolveAcc (acc : Option Sel) (a : Asm) : Asm :=
  match a, acc with
  | .store .acc addr, some r => .store (.r r.toNat) addr
  | _, _ => a

/-- The words of a program's statements, where `acc` is the register `ACC` stands for in the first of them: none at a
statement that could not be read or is refused. -/
def assembleFrom (acc : Option Sel) : List (Option Asm) → List (Option Word)
  | [] => []
  | none :: rest => none :: assembleFrom none rest
  | some a :: rest => assembleWord (resolveAcc acc a) :: assembleFrom (sumRegister a) rest

/-! ## From characters to statements

The grammar R77 reads off the document's examples. DESIGN CHOICE: blanks around operands are skipped, hexadecimal
digits may be of either case, and the choices marked below (assumption log 16). -/

/-- The pieces of a text between the occurrences of a character. -/
def splitAtChar (sep : Char) : List Char → List (List Char)
  | [] => [[]]
  | ch :: rest =>
    match splitAtChar sep rest with
    | [] => [[ch]]
    | piece :: more => if ch = sep then [] :: piece :: more else (ch :: piece) :: more

/-- A text without the blanks around it. -/
def trimBlanks (cs : List Char) : List Char :=
  ((cs.dropWhile (· == ' ')).reverse.dropWhile (· == ' ')).reverse

/-- The value of a digit of a base of at most 16. -/
def digitValue (base : Nat) (ch : Char) : Option Nat :=
  let n := ch.toNat
  let d :=
    if 48 ≤ n ∧ n ≤ 57 then n - 48
    else if 65 ≤ n ∧ n ≤ 70 then n - 55
    else if 97 ≤ n ∧ n ≤ 102 then n - 87
    else base
  if d < base then some d else none

/-- The number a run of digits stands for, after those already read. -/
def digitsFrom (base : Nat) (sofar : Nat) : List Char → Option Nat
  | [] => some sofar
  | ch :: rest =>
    match digitValue base ch with
    | some d => digitsFrom base (sofar * base + d) rest
    | none => none

/-- A number: at least one digit. Leading zeros change nothing (DESIGN CHOICE, safe: assumption log 16). -/
def numberOf (base : Nat) (cs : List Char) : Option Nat := if cs.isEmpty then none else digitsFrom base 0 cs

/-- A register name (R77), or the token `ACC` (R78). R77 writes `R0` to `R15` and is silent on leading zeros: they are
read, so `R01` is R1 (DESIGN CHOICE, safe: assumption log 16). -/
def regOf (cs : List Char) : Option RegName :=
  match trimBlanks cs with
  | ['A', 'C', 'C'] => some .acc
  | 'R' :: digits => (numberOf 10 digits).map .r
  | _ => none

/-- A hexadecimal address with `0x` (R77); leading zeros are read (DESIGN CHOICE, safe: assumption log 16). -/
def hexOf (cs : List Char) : Option Nat :=
  match cs with
  | '0' :: 'x' :: digits => numberOf 16 digits
  | _ => none

/-- An address, plain or in brackets: both mean the absolute address (R77). What stands in the brackets is written with
`0x` as well, with blanks around it or without (DESIGN CHOICE, safe: assumption log 16). -/
def addrOf (cs : List Char) : Option Nat :=
  match trimBlanks cs with
  | '[' :: inner => if inner.getLast? = some ']' then hexOf (trimBlanks inner.dropLast) else none
  | plain => hexOf plain

/-- The mnemonics of R77; `HLT` is `HALT` (R78). -/
inductive Mnemonic where
  | nop | load | store | alu (op : AluName) | jmp | halt
deriving DecidableEq, Repr

/-- Capitals only (R77). -/
def mnemonicFrom (cs : List Char) : Option Mnemonic :=
  match cs with
  | ['N', 'O', 'P'] => some .nop
  | ['L', 'O', 'A', 'D'] => some .load
  | ['S', 'T', 'O', 'R', 'E'] => some .store
  | ['A', 'D', 'D'] => some (.alu .add)
  | ['S', 'U', 'B'] => some (.alu .sub)
  | ['M', 'U', 'L'] => some (.alu .mul)
  | ['D', 'I', 'V'] => some (.alu .div)
  | ['J', 'M', 'P'] => some .jmp
  | ['H', 'A', 'L', 'T'] => some .halt
  | ['H', 'L', 'T'] => some .halt
  | _ => none

/-- The operands of a statement: none, or the pieces between commas. -/
def operandsOf (cs : List Char) : List (List Char) :=
  if (trimBlanks cs).isEmpty then [] else splitAtChar ',' cs

/-- The statement with this mnemonic and these operands, none where the form is not one of R77's. A JMP takes its
address in brackets too: R77's form table lists `JMP a` alone, where its text gives addresses two spellings without
naming instructions (DESIGN CHOICE, safe: assumption log 16). -/
def statementFrom (m : Mnemonic) (operands : List (List Char)) : Option Asm :=
  match m, operands with
  | .nop, [] => some .nop
  | .halt, [] => some .halt
  | .jmp, [a] => (addrOf a).map .jmp
  | .load, [r, a] => do pure (.load (← regOf r) (← addrOf a))
  | .store, [r, a] => do pure (.store (← regOf r) (← addrOf a))
  | .alu op, [r] => do pure (.alu op (← regOf r) none)
  | .alu op, [r, q] => do pure (.alu op (← regOf r) (some (← regOf q)))
  | _, _ => none

/-- One statement (R77). A mnemonic that is none of this hardware's is kept as `unknown`, for the assembler to
refuse (U2). -/
def statementOf (cs : List Char) : Option Asm :=
  let text := trimBlanks cs
  let name := text.takeWhile (· != ' ')
  match mnemonicFrom name with
  | some m => statementFrom m (operandsOf (text.drop name.length))
  | none => some (.unknown name)

/-- The words of a listing whose statements are separated by `;` (R77, R78), none at a statement that is refused. -/
def assembleListing (cs : List Char) : List (Option Word) := assembleFrom none ((splitAtChar ';' cs).map statementOf)

end Sys2Proof.Machine
end

