-- ==== Sys2Proof/Machine/Loader.lean ====
section
/-! DEFINITION. The contract between the loader and the core (spec 60_exceptions.md R173, 70_reset_and_hazards.md
R192): the records a loader presents and the image they make. The loader's own text form is outside the spec. -/

namespace Sys2Proof.Machine

open Sys2Proof

/-- A record as the loader presents it: the cell, its opcode and operand byte, and its data field, none where the
text of the field was not a number. -/
structure LoaderRecord where
  addr  : Addr
  high  : Byte
  field : Option Byte
deriving DecidableEq, Repr

/-- The cell of a record: a malformed field reaches the core as 0 (R173, U16). -/
def LoaderRecord.cell (r : LoaderRecord) : Word := r.high ++ r.field.getD 0

/-- A data byte, `.byte a: v`, is the cell `{0x00, v}` (R78). -/
def byteRecord (a : Addr) (v : Byte) : LoaderRecord := { addr := a, high := 0, field := some v }

/-- An instruction at a cell. -/
def instrRecord (a : Addr) (i : Instr) : LoaderRecord :=
  { addr := a, high := (encode i).extractLsb' 8 8, field := some i.imm }

/-- The image of a list of records, later ones over earlier ones; every other cell `0x0000` (R36, R192). -/
def imageOf (records : List LoaderRecord) : Memory :=
  records.foldl (fun m r => placeCell m r.addr r.cell) []

/-- Boot (R192): the loader fills the image, the configuration pair is presented, reset is applied. -/
def boot (records : List LoaderRecord) (fwdEn cacheEn : Bool) (params : Params) : State :=
  State.resetWith fwdEn cacheEn (imageOf records) params

end Sys2Proof.Machine
end

