-- ==== Sys2Proof/Machine/Observe.lean ====
section
/-! DEFINITION. What the host reads of the machine: the reported quantities (spec 43_pipeline_cycle.md R160 to
R162), the event data of one cycle (60_exceptions.md R183) and the output signals of the informative port list that
are functions of the state (00_scope.md R7). Nothing here is read by a step. -/

namespace Sys2Proof.Machine

open Sys2Proof

/-- CPI (R160): 0 when no instruction has executed. -/
def cpi (k : Counters) : ℚ := if k.instructions = 0 then 0 else (k.cycles : ℚ) / (k.instructions : ℚ)

/-- Total stalls (R161). -/
def totalStalls (k : Counters) : Nat := k.hazardStalls + k.cacheStallCycles

/-- Hit rate (R162): 0 when there was no access. PRESUMED: the spec marks the formula as general knowledge
(assumption log 13). -/
def hitRate (k : Counters) : ℚ :=
  if k.cacheHits + k.cacheMisses = 0 then 0 else (k.cacheHits : ℚ) / ((k.cacheHits + k.cacheMisses : Nat) : ℚ)

/-- The notable events of a cycle (R183). -/
inductive Event where
  | fetch (addr : Addr) (word : Word) (mnemonic : String)
  | stall
  | flush (target : Addr)
  | forward (reg : Sel) (value : Byte)
  | cacheHit (addr : Addr)
  | cacheMiss (addr : Addr)
  | register (r : Sel) (before after : Byte)
  | memory (addr : Addr) (before after : Byte)
deriving DecidableEq, Repr

/-- Did step 5 latch in the cycle from `s` to `t`? PR then holds an instruction not yet executed, and the cycle
was no gate cycle. -/
def latched (s t : State) : Bool := toExecute t && s.cacheStallRemaining == 0#3 && t.ctr.cycles != s.ctr.cycles

/-- The registers whose value a cycle changed. -/
def registerEvents (s t : State) : List Event :=
  (List.range 16).filterMap fun n =>
    if readReg s (BitVec.ofNat 4 n) = readReg t (BitVec.ofNat 4 n) then none
    else some (.register (BitVec.ofNat 4 n) (readReg s (BitVec.ofNat 4 n)) (readReg t (BitVec.ofNat 4 n)))

/-- The event data of the cycle from `s` to `t`, determined by the two states and the per-cycle outputs (R183). The
data field a cycle writes is the one `mar` names (R111). -/
def cycleEvents (s t : State) : List Event :=
  (if latched s t then [.fetch t.pr.pc (cellAt t.mem t.pr.pc) (mnemonicOf t.pr.opcode)] else [])
    ++ (if t.out.stalled then [.stall] else [])
    ++ (if t.out.flushed then [.flush t.pr.pc] else [])
    ++ (if t.out.fwdActive then [.forward t.out.fwdReg t.out.fwdValue] else [])
    ++ (if s.ctr.cacheHits < t.ctr.cacheHits then [.cacheHit t.mar] else [])
    ++ (if s.ctr.cacheMisses < t.ctr.cacheMisses then [.cacheMiss t.mar] else [])
    ++ registerEvents s t
    ++ (if memRead s.mem t.mar = memRead t.mem t.mar then []
        else [.memory t.mar (memRead s.mem t.mar) (memRead t.mem t.mar)])

/-- The 2-bit `fault` signal (R7): the code of R175. DESIGN CHOICE: 0 for no condition (assumption log 20). -/
def faultSignal (f : Option Fault) : BitVec 2 :=
  match f with
  | none => 0#2
  | some c => BitVec.ofNat 2 c.code

/-- The output signals that are functions of the state (R7). -/
structure Outputs where
  halted     : Bool
  terminated : Bool
  fault      : BitVec 2
  counters   : Counters
  perCycle   : CycleOut
deriving DecidableEq, Repr

/-- The output signals of a state (R7). -/
def outputs (s : State) : Outputs :=
  { halted := s.halted, terminated := terminated s, fault := faultSignal s.fault, counters := s.ctr, perCycle := s.out }

end Sys2Proof.Machine
end

