-- ==== Sys2Proof/Machine/Sequential.lean ====
section
/-! DEFINITION. The same instructions without the pipeline: what a program computes, one instruction after another,
with no cycle, no cache, no pipeline register and no forwarding (spec 20_memory.md R57, 43_pipeline_cycle.md R144 and
R165). It is the reference the pipeline is compared with; no step uses it. -/

namespace Sys2Proof.Machine

open Sys2Proof

/-- The values R165 says are the same in every configuration. `next` is the address of the next instruction to
execute. -/
structure View where
  regs         : Vector Byte 16
  mem          : Memory
  z            : Bool
  c            : Bool
  mar          : Byte
  mdr          : Byte
  halted       : Bool
  next         : PcWord
  instructions : Nat
  flushes      : Nat
deriving DecidableEq, Repr

/-- What a state of the machine shows of these values. An instruction that stands in the pipeline register and has
not executed is still the next one. -/
def view (s : State) : View :=
  { regs := s.regs, mem := s.mem, z := s.z, c := s.c, mar := s.mar, mdr := s.mdr, halted := s.halted,
    next := if toExecute s then s.pr.pc.setWidth 9 else s.pc,
    instructions := s.ctr.instructions, flushes := s.ctr.flushes }

/-- `x[r]` of a view (R11). -/
def View.reg (v : View) (r : Sel) : Byte := if r = 0#4 then 0#8 else v.regs[r.toNat]'(by have := r.isLt; omega)

/-- `x[r] <- d` of a view (R11). -/
def View.setReg (v : View) (r : Sel) (d : Byte) : View :=
  { v with regs := if r = 0#4 then v.regs else v.regs.set r.toNat d (by have := r.isLt; omega) }

/-- The low nibble of a register of a view (R90). -/
def View.nibble (v : View) (r : Sel) : Nibble := lowNibble (v.reg r)

/-- What one instruction does to the values of a view (R90 to R94, R110, R111, R120 to R123). -/
def seqExec (sense : SubCarry) (i : Instr) (v : View) : View :=
  match i with
  | .nop _ _ => v
  | .load r a => { v.setReg r (memRead v.mem a) with mar := a, mdr := memRead v.mem a }
  | .store r a => { v with mem := memWrite v.mem a (v.reg r), mar := a, mdr := v.reg r }
  | .add r _ =>
    { v.setReg r (widen (aluAdd (v.nibble r) (v.nibble (secondSource r)))) with
      z := zeroFlag (aluAdd (v.nibble r) (v.nibble (secondSource r)))
      c := addCarry (v.nibble r) (v.nibble (secondSource r)) }
  | .sub r _ =>
    { v.setReg r (widen (aluSub (v.nibble r) (v.nibble (secondSource r)))) with
      z := zeroFlag (aluSub (v.nibble r) (v.nibble (secondSource r)))
      c := subCarryFlag sense (v.nibble r) (v.nibble (secondSource r)) }
  | .mul r _ => v.setReg r (aluMul (v.nibble r) (v.nibble (secondSource r)))
  | .div r _ => v.setReg r (widen (aluDiv (v.nibble r) (v.nibble (secondSource r))))
  | .jmp _ a => { v with next := a.setWidth 9, flushes := v.flushes + 1 }
  | .halt _ _ => { v with halted := true }
  | .rsvd1001 _ _ => v
  | .rsvd101x _ _ _ => v
  | .rsvd11xx _ _ _ => v

/-- One instruction of the sequential machine: nothing after HALT, nothing past the end of memory. -/
def seqStep (sense : SubCarry) (v : View) : View :=
  if v.halted then v
  else
    match memFetch v.mem v.next with
    | none => v
    | some w => seqExec sense (decode w) { v with next := v.next + 1#9, instructions := v.instructions + 1 }

end Sys2Proof.Machine
end

