-- ==== Sys2Proof/Safety.lean ====
section
/-! DEFINITION. The terms in which claims about the machine are stated: when a cycle is performed, what an
instruction leaves alone, what a safe run is, and the invariants of the machine. -/

namespace Sys2Proof.Machine

open Sys2Proof

/-! ## Safe states -/

/-- No condition has been raised (R170). -/
def safe (s : State) : Bool := s.fault.isNone

/-- The next step is a `Cycle()` (R130, R151). -/
def running (s : State) : Bool := !stuck s && decide (s.ctr.cycles < s.params.maxCycles)

/-- The next step executes the instruction in the pipeline register (R131, R132). -/
def executing (s : State) : Bool := running s && s.cacheStallRemaining == 0#3 && toExecute s

/-! ## The numbers of 00_scope.md section 5 -/

/-- The low 4 bits of a register as an unsigned number. -/
def nibbleNat (v : Byte) : Nat := v.toNat % 16

/-- `s4`: the low 4 bits of a register as a signed number, -8 to 7. -/
def nibbleInt (v : Byte) : Int :=
  if v.toNat % 16 < 8 then ((v.toNat % 16 : Nat) : Int) else ((v.toNat % 16 : Nat) : Int) - 16

/-- Register number `(r + 1) mod 16`. -/
def nextSel (r : Sel) : Sel := BitVec.ofNat 4 ((r.toNat + 1) % 16)

/-- One of the three reserved constructors, with any fields (R75, R123). -/
def IsReserved (i : Instr) : Prop :=
  (∃ (o : Sel) (m : Byte), i = .rsvd1001 o m) ∨ (∃ (x : BitVec 1) (o : Sel) (m : Byte), i = .rsvd101x x o m) ∨
  (∃ (x : BitVec 2) (o : Sel) (m : Byte), i = .rsvd11xx x o m)

/-! ## Frames -/

/-- Every general register but one reads as before. -/
def RegsKeptExcept (r : Sel) (s t : State) : Prop := ∀ q : Sel, q ≠ r → readReg t q = readReg s q

/-- Every general register reads as before. -/
def RegsKept (s t : State) : Prop := ∀ q : Sel, readReg t q = readReg s q

/-- Every byte of memory reads as before. -/
def MemKept (s t : State) : Prop := ∀ k : Nat, Memory.readKey t.mem k = Memory.readKey s.mem k

/-- Both flags are as before. -/
def FlagsKept (s t : State) : Prop := t.z = s.z ∧ t.c = s.c

/-- `mar` and `mdr` are as before. -/
def AddressRegsKept (s t : State) : Prop := t.mar = s.mar ∧ t.mdr = s.mdr

/-- Every cache line is as before. -/
def CacheKept (s t : State) : Prop := ∀ i : BitVec 3, lineAt t i = lineAt s i

/-- The configuration, the countdown, the condition and the parameters are as before. -/
def ControlKept (s t : State) : Prop :=
  t.fwdEn = s.fwdEn ∧ t.cacheEn = s.cacheEn ∧ t.cacheStallRemaining = s.cacheStallRemaining ∧ t.fault = s.fault ∧
  t.params = s.params

/-- The fields of the pipeline register that hold the instruction are as before. -/
def PipeFieldsKept (s t : State) : Prop :=
  t.pr.bubble = s.pr.bubble ∧ t.pr.opcode = s.pr.opcode ∧ t.pr.operand = s.pr.operand ∧ t.pr.imm = s.pr.imm ∧
  t.pr.pc = s.pr.pc ∧ t.pr.isLoad = s.pr.isLoad ∧ t.pr.destReg = s.pr.destReg ∧ t.pr.executed = s.pr.executed

/-- The result fields of the pipeline register are as before. -/
def ResultFieldsKept (s t : State) : Prop :=
  t.pr.producesResult = s.pr.producesResult ∧ t.pr.resultValue = s.pr.resultValue ∧ t.pr.resultReady = s.pr.resultReady

/-- The outputs only the controller's own steps write are as before (R32). -/
def FlowOutputsKept (s t : State) : Prop :=
  t.out.stalled = s.out.stalled ∧ t.out.fwdActive = s.out.fwdActive ∧ t.out.fwdReg = s.out.fwdReg ∧
  t.out.fwdValue = s.out.fwdValue

/-- What every execute step but HALT's leaves alone, whatever it computes: `halted`, the configuration and the
instruction fields of the pipeline register. -/
def ExecKept (s t : State) : Prop :=
  t.halted = s.halted ∧ ControlKept s t ∧ PipeFieldsKept s t ∧ FlowOutputsKept s t

/-- What an ALU instruction on register `r` leaves alone, its flags apart. -/
def AluFrame (r : Sel) (s t : State) : Prop :=
  ExecKept s t ∧ RegsKeptExcept r s t ∧ MemKept s t ∧ AddressRegsKept s t ∧ CacheKept s t ∧ t.ctr = s.ctr ∧
  t.pc = s.pc ∧ t.pr.valid = s.pr.valid ∧ t.out.flushed = s.out.flushed ∧ t.out.stall = 0#3

/-- A result written (R90, R110): register `r` holds it, or, for register 0, the write is ignored and flagged (R11);
the pipeline register shows it in either case. -/
def ResultWritten (r : Sel) (v : Byte) (s t : State) : Prop :=
  (r ≠ 0#4 → readReg t r = v ∧ t.out.r0WriteIgnored = s.out.r0WriteIgnored) ∧
  (r = 0#4 → readReg t r = 0#8 ∧ t.out.r0WriteIgnored = true) ∧
  t.pr.producesResult = true ∧ t.pr.resultValue = v ∧ t.pr.resultReady = true

/-- Nothing but the returned stall differs (R122, R123). -/
def NothingElse (s t : State) : Prop :=
  ExecKept s t ∧ RegsKept s t ∧ MemKept s t ∧ FlagsKept s t ∧ AddressRegsKept s t ∧ CacheKept s t ∧ t.ctr = s.ctr ∧
  t.pc = s.pc ∧ t.pr = s.pr ∧ t.out.flushed = s.out.flushed ∧ t.out.r0WriteIgnored = s.out.r0WriteIgnored ∧
  t.out.stall = 0#3

/-! ## What becomes of the pipeline register -/

/-- Step 5 of the cycle to `t` latched the word `w` of the cell at `pc` (R140). -/
def Latches (s t : State) (w : Word) : Prop :=
  t.pr = latch w (s.pc.setWidth 8) ∧ t.pc.toNat = s.pc.toNat + 1 ∧ t.out.stalled = false

/-- Step 4 of the cycle to `t` put a bubble into PR, and `pc` stayed (R139). -/
def Bubbles (s t : State) : Prop := t.pr = PipeReg.bubbled ∧ t.pc = s.pc ∧ t.out.stalled = true

/-- The word `w` after a LOAD needs its register `r`, which the LOAD of `s` gave the byte `d`: with forwarding the
cycle to `t` forwards and latches `w`; without, it stalls, and the cycle after it latches `w` (R137, R139). -/
def LoadUseResolved (s t : State) (r : Sel) (d : Byte) (w : Word) : Prop :=
  (s.fwdEn = true →
    t.ctr.forwards = s.ctr.forwards + 1 ∧ t.ctr.hazardStalls = s.ctr.hazardStalls ∧
    t.out.fwdActive = true ∧ t.out.fwdReg = r ∧ t.out.fwdValue = d ∧ Latches s t w) ∧
  (s.fwdEn = false →
    t.ctr.hazardStalls = s.ctr.hazardStalls + 1 ∧ t.ctr.forwards = s.ctr.forwards ∧
    t.out.fwdActive = false ∧ Bubbles s t ∧
    ∃ u : State, step t = .next u ∧ Latches t u w ∧ u.ctr = { t.ctr with cycles := t.ctr.cycles + 1 } ∧
      RegsKept t u ∧ MemKept t u)

/-! ## Invariants -/

/-- Every valid line holds the data field of the cell it maps (R25 (c)): line `i` with tag `t` maps cell `t*8 + i`. -/
def Coherent (s : State) : Prop :=
  ∀ i : BitVec 3, (lineAt s i).valid = true →
    (lineAt s i).data = memRead s.mem (BitVec.ofNat 8 ((lineAt s i).tag.toNat * 8 + i.toNat))

/-- With the cache off its state is the reset one (R54, R19). -/
def CacheIdle (s : State) : Prop :=
  s.cacheEn = false →
    (∀ i : BitVec 3, lineAt s i = CacheLine.fresh) ∧ s.ctr.cacheHits = 0 ∧ s.ctr.cacheMisses = 0 ∧
    s.ctr.cacheStallCycles = 0 ∧ s.cacheStallRemaining = 0#3

/-- `pc` is one of 0 to 256 (R13). -/
def PcInRange (s : State) : Prop := s.pc.toNat ≤ 256

/-- While an instruction is in the pipeline register `pc` is the address after its own (R14). -/
def PcFollowsPr (s : State) : Prop := s.pr.valid = true → s.pc.toNat = s.pr.pc.toNat + 1

/-- The countdown is at most the miss stall (R19). -/
def StallInRange (s : State) : Prop := s.cacheStallRemaining.toNat ≤ 4

/-- Four stall cycles are counted a miss (R53). -/
def MissAccounting (s : State) : Prop := s.ctr.cacheStallCycles = 4 * s.ctr.cacheMisses

/-- A valid pipeline register is no bubble, its LOAD flag and destination are those of its instruction, and a LOAD
that has executed shows its result (R20, R22, R137). -/
def PrConsistent (s : State) : Prop :=
  s.pr.valid = true →
    s.pr.bubble = false ∧ s.pr.isLoad = isLoadOp s.pr.opcode ∧ s.pr.destReg = s.pr.operand ∧
    (s.pr.isLoad = true → s.pr.executed = true → s.pr.producesResult = true ∧ s.pr.resultReady = true)

/-- At the end of a cycle a halted machine has drained (R134). -/
def HaltedDrained (s : State) : Prop := s.halted = true → s.pr.valid = false

/-- An instruction not yet executed is the word its cell holds (R41, R135, R140). -/
def LatchedFromMemory (s : State) : Prop :=
  toExecute s = true → s.pr = latch (cellAt s.mem s.pr.pc) s.pr.pc

/-- What the comparison with the sequential machine rests on. -/
def FlowInv (s : State) : Prop :=
  Coherent s ∧ CacheIdle s ∧ PcFollowsPr s ∧ HaltedDrained s ∧ LatchedFromMemory s

end Sys2Proof.Machine
end

