-- ==== Sys2Proof/Certificates/Slice0/Obligations.lean ====
section
/-! DEFINITION. The statements for the provers. Each docstring names the rules of spec/ it rests on; where one of them
is a decision of the spec (spec/92_eei_decisions.md D<n>) or a choice of the model (assumption log <n>), it says so. -/

open Sys2Proof Sys2Proof.Machine

/-! ## Encoding -/

/-- R71, R73, R74 (numbers: D2, D3): decoding what the encoder writes gives the instruction back, with every operand at
every value, and encoding what the decoder reads gives the word back: no bit of a word is dropped. -/
def Obligations.DecodeAndEncodeAgree : Prop :=
  (∀ i : Instr, decode (encode i) = i) ∧ (∀ w : Word, encode (decode w) = w)

/-- R71, R74 (D2): the three fields of a decoded word are its slices, as numbers. -/
def Obligations.DecodedFieldsAreTheSlices : Prop :=
  ∀ w : Word,
    (decode w).opcode.toNat = w.toNat / 4096 ∧ (decode w).operand.toNat = w.toNat / 256 % 16 ∧
    (decode w).imm.toNat = w.toNat % 256

/-- R73, R74 and the mask and pattern rows of opcode_table.json (D3): a word matches exactly one row, the row of the
instruction it decodes to, and that row carries the opcode's mnemonic. -/
def Obligations.EveryWordMatchesItsTableRowOnly : Prop :=
  ∀ (w : Word) (n : Nat) (row : TableRow), opcodeTable[n]? = some row →
    (row.matchesWord w = true ↔ (decode w).rowNumber = n) ∧
    (row.matchesWord w = true → row.mnemonic = mnemonicOf (opcodeOf w))

/-- The words of 95_test_vectors.md V-E decode to the instructions it names. -/
def Obligations.SpecWordsDecodeAsListed : Prop :=
  decodeTableWord 16 0x0005 = some (.nop 0 0x05) ∧ decodeTableWord 16 0x1F81 = some (.load 15 0x81) ∧
  decodeTableWord 16 0x2182 = some (.store 1 0x82) ∧ decodeTableWord 16 0x3F00 = some (.add 15 0) ∧
  decodeTableWord 16 0x61AB = some (.div 1 0xAB) ∧ decodeTableWord 16 0x7104 = some (.jmp 1 0x04) ∧
  decodeTableWord 16 0x8FFF = some (.halt 15 0xFF) ∧ decodeTableWord 16 0xF123 = some (.rsvd11xx 3 1 0x23)

/-- R79. -/
def Obligations.OpcodePredicatesAreExact : Prop :=
  ∀ op : Sel, (isLoadOp op = true ↔ op.toNat = 1) ∧
    (isAluOp op = true ↔ op.toNat = 3 ∨ op.toNat = 4 ∨ op.toNat = 5 ∨ op.toNat = 6)

/-- R77, U2, U20 (D34): an ALU statement with a second register is accepted exactly when that register is
`(r+1) mod 16`, and it then encodes with the opcode, the first register and a zero immediate; a LOAD encodes its
register and address. -/
def Obligations.AssemblerChecksTheSecondRegister : Prop :=
  (∀ (op : AluName) (n m : Nat) (i : Instr), assemble (.alu op (.r n) (some (.r m))) = some i ↔
    (n < 16 ∧ m = (n + 1) % 16 ∧ i = aluInstr op (BitVec.ofNat 4 n))) ∧
  (∀ n a : Nat, n < 16 → a < 256 →
    (assembleWord (.load (.r n) a)).map BitVec.toNat = some (0x1000 + n * 256 + a)) ∧
  (∀ name, assemble (.unknown name) = none)

/-! ## ALU instructions: result, flags and frame -/

/-- R91 with R90, R95, R97 (D5, D6, D19; the zero flag is general knowledge, log 13): ADD writes `(a+b) mod 16` of the
low nibbles of `x[r]` and `x[(r+1) mod 16]`, sets Z and C, and leaves everything else. -/
def Obligations.AddWritesSumAndFlags : Prop :=
  ∀ (r : Sel) (imm : Byte) (s : State), ∃ (t : State) (v : Byte), exec (.add r imm) s = .next t ∧
    v.toNat = (nibbleNat (readReg s r) + nibbleNat (readReg s (nextSel r))) % 16 ∧
    ResultWritten r v s t ∧
    (t.z = true ↔ v.toNat = 0) ∧
    (t.c = true ↔ 16 ≤ nibbleNat (readReg s r) + nibbleNat (readReg s (nextSel r))) ∧
    AluFrame r s t

/-- R92 with R90, R95, R97 (D5, D6, D19): SUB writes `(a-b) mod 16`, Z, and C in the sense of the parameter
`SUB_CARRY`, and leaves everything else. -/
def Obligations.SubWritesDifferenceAndFlags : Prop :=
  ∀ (r : Sel) (imm : Byte) (s : State), ∃ (t : State) (v : Byte), exec (.sub r imm) s = .next t ∧
    (v.toNat : Int) = ((nibbleNat (readReg s r) : Int) - (nibbleNat (readReg s (nextSel r)) : Int)) % 16 ∧
    ResultWritten r v s t ∧
    (t.z = true ↔ v.toNat = 0) ∧
    (s.params.subCarry = .carryOut →
      (t.c = true ↔ nibbleNat (readReg s (nextSel r)) ≤ nibbleNat (readReg s r))) ∧
    (s.params.subCarry = .borrow →
      (t.c = true ↔ nibbleNat (readReg s r) < nibbleNat (readReg s (nextSel r)))) ∧
    AluFrame r s t

/-- R93 with R90, R95 (D5, D6, D19): MUL writes the 8-bit signed product of the signed nibbles, exactly, and leaves
the flags and everything else. -/
def Obligations.MulWritesTheSignedProduct : Prop :=
  ∀ (r : Sel) (imm : Byte) (s : State), ∃ (t : State) (v : Byte), exec (.mul r imm) s = .next t ∧
    v.toInt = nibbleInt (readReg s r) * nibbleInt (readReg s (nextSel r)) ∧
    ResultWritten r v s t ∧ FlagsKept s t ∧ AluFrame r s t

/-- R94 with R90, R95, R97 (D5, D6, D7; the bound on the remainder is general knowledge, log 13): DIV writes 0 for a
zero divisor, and else the quotient `q mod 16` of the division whose remainder is smaller than the divisor and has
the dividend's sign; it leaves the flags and everything else. -/
def Obligations.DivWritesTheTruncatedQuotient : Prop :=
  ∀ (r : Sel) (imm : Byte) (s : State), ∃ (t : State) (v : Byte), exec (.div r imm) s = .next t ∧
    (nibbleInt (readReg s (nextSel r)) = 0 → v.toNat = 0) ∧
    (nibbleInt (readReg s (nextSel r)) ≠ 0 → ∃ q m : Int,
      nibbleInt (readReg s r) = q * nibbleInt (readReg s (nextSel r)) + m ∧
      |m| < |nibbleInt (readReg s (nextSel r))| ∧
      (0 < m → 0 < nibbleInt (readReg s r)) ∧ (m < 0 → nibbleInt (readReg s r) < 0) ∧
      (v.toNat : Int) = q % 16) ∧
    ResultWritten r v s t ∧ FlagsKept s t ∧ AluFrame r s t

/-- R98 (derived there): in the ranges it names, the 4-bit results are the plain 8-bit ones. -/
def Obligations.SmallOperandsGivePlainArithmetic : Prop :=
  ∀ (r : Sel) (imm : Byte) (s : State) (a b : Nat),
    (readReg s r).toNat = a → (readReg s (nextSel r)).toNat = b → a ≤ 15 → b ≤ 15 →
    (∃ t, exec (.add r imm) s = .next t ∧ (t.pr.resultValue.toNat = a + b ↔ a + b ≤ 15)) ∧
    (∃ t, exec (.sub r imm) s = .next t ∧ ((t.pr.resultValue.toNat : Int) = (a : Int) - b ↔ b ≤ a)) ∧
    (∃ t, exec (.mul r imm) s = .next t ∧ (a ≤ 7 → b ≤ 7 → t.pr.resultValue.toNat = a * b)) ∧
    (∃ t, exec (.div r imm) s = .next t ∧ (a ≤ 7 → b ≤ 7 → b ≠ 0 → t.pr.resultValue.toNat = a / b))

/-! ## LOAD and STORE -/

/-- R110, R112 (mdr: D16; register 0: D19): LOAD takes the byte from the cache on a hit and from memory otherwise, writes it to `x[r]`, `mdr` and
the result fields, the address to `mar`, and returns the stall of R113; its cache effects are those of `CacheRead`;
memory, the flags and everything else stay. -/
def Obligations.LoadDeliversTheByte : Prop :=
  ∀ (r : Sel) (a : Addr) (s : State), ∃ (t : State) (d : Byte), exec (.load r a) s = .next t ∧
    d = (if s.cacheEn = true ∧ cacheHit s a = true then (lineAt s (cacheIndex a)).data else memRead s.mem a) ∧
    ResultWritten r d s t ∧ t.mar = a ∧ t.mdr = d ∧
    t.out.stall.toNat = (if s.cacheEn = true ∧ cacheHit s a = false then 4 else 0) ∧
    (s.cacheEn = false → CacheKept s t ∧ t.ctr = s.ctr) ∧
    (s.cacheEn = true → cacheHit s a = true →
      CacheKept s t ∧ t.ctr = { s.ctr with cacheHits := s.ctr.cacheHits + 1 }) ∧
    (s.cacheEn = true → cacheHit s a = false →
      lineAt t (cacheIndex a) = { valid := true, tag := cacheTag a, data := d } ∧
      (∀ i, i ≠ cacheIndex a → lineAt t i = lineAt s i) ∧
      t.ctr = { s.ctr with cacheMisses := s.ctr.cacheMisses + 1, cacheStallCycles := s.ctr.cacheStallCycles + 4 }) ∧
    ExecKept s t ∧ RegsKeptExcept r s t ∧ MemKept s t ∧ FlagsKept s t ∧ t.pc = s.pc ∧ t.pr.valid = s.pr.valid ∧
    t.out.flushed = s.out.flushed

/-- R55, R57 (derived there): where every valid line equals the cell it maps, a LOAD returns the byte memory holds, in
every configuration. -/
def Obligations.LoadReturnsTheMemoryByte : Prop :=
  ∀ (r : Sel) (a : Addr) (s : State), Coherent s →
    ∃ t : State, exec (.load r a) s = .next t ∧ ResultWritten r (memRead s.mem a) s t ∧ t.mdr = memRead s.mem a

/-- R111, R112, R43 (mar, mdr: D16; high byte: D1): STORE writes the whole register to the data field of cell `a`, every
other byte of memory, the opcode and operand byte of the same cell among them, stays; `mar`, `mdr`, the cache effects
of `CacheWrite` and the stall of R113; no register, no flag, no result. -/
def Obligations.StoreWritesOneDataField : Prop :=
  ∀ (r : Sel) (a : Addr) (s : State), ∃ t : State, exec (.store r a) s = .next t ∧
    Memory.readKey t.mem (dataKey a) = readReg s r ∧
    (∀ k, k ≠ dataKey a → Memory.readKey t.mem k = Memory.readKey s.mem k) ∧
    t.mar = a ∧ t.mdr = readReg s r ∧
    t.out.stall.toNat = (if s.cacheEn = true ∧ cacheHit s a = false then 4 else 0) ∧
    (s.cacheEn = false → CacheKept s t ∧ t.ctr = s.ctr) ∧
    (s.cacheEn = true → lineAt t (cacheIndex a) = { valid := true, tag := cacheTag a, data := readReg s r } ∧
      (∀ i, i ≠ cacheIndex a → lineAt t i = lineAt s i)) ∧
    (s.cacheEn = true → cacheHit s a = true → t.ctr = { s.ctr with cacheHits := s.ctr.cacheHits + 1 }) ∧
    (s.cacheEn = true → cacheHit s a = false →
      t.ctr = { s.ctr with cacheMisses := s.ctr.cacheMisses + 1, cacheStallCycles := s.ctr.cacheStallCycles + 4 }) ∧
    ExecKept s t ∧ ResultFieldsKept s t ∧ RegsKept s t ∧ FlagsKept s t ∧ t.pc = s.pc ∧ t.pr.valid = s.pr.valid ∧
    t.out.flushed = s.out.flushed ∧ t.out.r0WriteIgnored = s.out.r0WriteIgnored

/-- R113: the stall an execute step returns is 4 exactly for a LOAD or STORE that misses with the cache on, 0
otherwise. -/
def Obligations.OnlyACacheMissReturnsAStall : Prop :=
  ∀ (i : Instr) (s t : State), exec i s = .next t →
    ((t.out.stall.toNat = 4 ↔ s.cacheEn = true ∧ ∃ (r : Sel) (a : Addr), (i = .load r a ∨ i = .store r a) ∧
      cacheHit s a = false) ∧
    (t.out.stall.toNat = 4 ∨ t.out.stall.toNat = 0))

/-! ## The cache -/

/-- R52. -/
def Obligations.CacheGeometry : Prop :=
  ∀ (a b : Addr) (s : State),
    (cacheIndex a).toNat = a.toNat % 8 ∧ (cacheTag a).toNat = a.toNat / 8 ∧
    (∀ k < 3, (cacheIndex a).getLsbD k = a.getLsbD k) ∧ (∀ k < 5, (cacheTag a).getLsbD k = a.getLsbD (k + 3)) ∧
    a.toNat = (cacheTag a).toNat * 8 + (cacheIndex a).toNat ∧
    (cacheIndex a = cacheIndex b ↔ ∀ k < 3, a.getLsbD k = b.getLsbD k) ∧
    (cacheHit s a = true ↔
      (lineAt s (cacheIndex a)).valid = true ∧ (lineAt s (cacheIndex a)).tag = cacheTag a)

/-- R50. -/
def Obligations.CacheReadHitAndMiss : Prop :=
  ∀ (s : State) (a : Addr),
    ((lineAt s (cacheIndex a)).valid = true ∧ (lineAt s (cacheIndex a)).tag = cacheTag a →
      (cacheRead s a).data = (lineAt s (cacheIndex a)).data ∧ (cacheRead s a).hit = true ∧
      (cacheRead s a).stall.toNat = 0 ∧ CacheKept s (cacheRead s a).state ∧
      (cacheRead s a).state.ctr = { s.ctr with cacheHits := s.ctr.cacheHits + 1 }) ∧
    (¬((lineAt s (cacheIndex a)).valid = true ∧ (lineAt s (cacheIndex a)).tag = cacheTag a) →
      (cacheRead s a).data = memRead s.mem a ∧ (cacheRead s a).hit = false ∧ (cacheRead s a).stall.toNat = 4 ∧
      lineAt (cacheRead s a).state (cacheIndex a) = { valid := true, tag := cacheTag a, data := memRead s.mem a } ∧
      (∀ i, i ≠ cacheIndex a → lineAt (cacheRead s a).state i = lineAt s i) ∧
      (cacheRead s a).state.ctr =
        { s.ctr with cacheMisses := s.ctr.cacheMisses + 1, cacheStallCycles := s.ctr.cacheStallCycles + 4 }) ∧
    { (cacheRead s a).state with lines := s.lines, ctr := s.ctr } = s

/-- R51. -/
def Obligations.CacheWriteHitAndMiss : Prop :=
  ∀ (s : State) (a : Addr) (v : Byte),
    memRead (cacheWrite s a v).state.mem a = v ∧
    (∀ k, k ≠ dataKey a → Memory.readKey (cacheWrite s a v).state.mem k = Memory.readKey s.mem k) ∧
    lineAt (cacheWrite s a v).state (cacheIndex a) = { valid := true, tag := cacheTag a, data := v } ∧
    (∀ i, i ≠ cacheIndex a → lineAt (cacheWrite s a v).state i = lineAt s i) ∧
    ((lineAt s (cacheIndex a)).valid = true ∧ (lineAt s (cacheIndex a)).tag = cacheTag a →
      (cacheWrite s a v).stall.toNat = 0 ∧
      (cacheWrite s a v).state.ctr = { s.ctr with cacheHits := s.ctr.cacheHits + 1 }) ∧
    (¬((lineAt s (cacheIndex a)).valid = true ∧ (lineAt s (cacheIndex a)).tag = cacheTag a) →
      (cacheWrite s a v).stall.toNat = 4 ∧
      (cacheWrite s a v).state.ctr =
        { s.ctr with cacheMisses := s.ctr.cacheMisses + 1, cacheStallCycles := s.ctr.cacheStallCycles + 4 }) ∧
    { (cacheWrite s a v).state with lines := s.lines, ctr := s.ctr, mem := s.mem } = s

/-- T6 (95_test_vectors.md), R50: an immediate repeat of a read is a hit with the same byte; a read of another address
with the same index in between makes it a miss again. -/
def Obligations.RepeatHitsAndConflictEvicts : Prop :=
  ∀ (s : State) (a b : Addr),
    ((cacheRead (cacheRead s a).state a).hit = true ∧
      (cacheRead (cacheRead s a).state a).data = (cacheRead s a).data) ∧
    (cacheIndex b = cacheIndex a → b ≠ a →
      (cacheRead (cacheRead (cacheRead s a).state b).state a).hit = false)

/-! ## JMP, HALT, NOP, reserved opcodes -/

/-- R120 (D13): JMP sets `pc` to its immediate, flags and counts the flush, invalidates the pipeline register, and leaves
everything else; its operand field has no effect. -/
def Obligations.JumpSetsPcAndCountsTheFlush : Prop :=
  ∀ (operand : Sel) (a : Addr) (s : State), ∃ t : State, exec (.jmp operand a) s = .next t ∧
    t.pc.toNat = a.toNat ∧ t.pr.valid = false ∧ t.out.flushed = true ∧
    t.ctr = { s.ctr with flushes := s.ctr.flushes + 1 } ∧ t.out.stall = 0#3 ∧
    ExecKept s t ∧ ResultFieldsKept s t ∧ RegsKept s t ∧ MemKept s t ∧ FlagsKept s t ∧ AddressRegsKept s t ∧
    CacheKept s t ∧ t.out.r0WriteIgnored = s.out.r0WriteIgnored

/-- R121 (D12): HALT raises the halt flag and leaves everything else; its fields have no effect. -/
def Obligations.HaltSetsTheHaltFlag : Prop :=
  ∀ (operand : Sel) (imm : Byte) (s : State), ∃ t : State, exec (.halt operand imm) s = .next t ∧
    t.halted = true ∧ ControlKept s t ∧ FlowOutputsKept s t ∧ RegsKept s t ∧ MemKept s t ∧ FlagsKept s t ∧
    AddressRegsKept s t ∧ CacheKept s t ∧ t.ctr = s.ctr ∧ t.pc = s.pc ∧ t.pr = s.pr ∧
    t.out.flushed = s.out.flushed ∧ t.out.r0WriteIgnored = s.out.r0WriteIgnored ∧ t.out.stall = 0#3

/-- R122: NOP has no effect, and an executed NOP is counted and takes one cycle. -/
def Obligations.NopIsCountedAndDoesNothing : Prop :=
  ∀ (operand : Sel) (imm : Byte) (s : State),
    (∃ t : State, exec (.nop operand imm) s = .next t ∧ NothingElse s t) ∧
    (executing s = true → s.pr.instr = .nop operand imm → ∃ t : State, step s = .next t ∧
      t.ctr.instructions = s.ctr.instructions + 1 ∧ t.ctr.cycles = s.ctr.cycles + 1 ∧
      RegsKept s t ∧ MemKept s t ∧ FlagsKept s t ∧ AddressRegsKept s t ∧ CacheKept s t)

/-- R123: the reserved instructions (rsvd1001, rsvd101x, rsvd11xx) run exactly like NOP: no effect of their own, one
cycle, counted, no fault of their own; a word with opcode 9 to 15 decodes to one of them, is no LOAD and no ALU opcode,
and as a consumer only its operand field is compared. -/
def Obligations.ReservedOpcodesRunAsNop : Prop :=
  (∀ (i : Instr) (s : State), IsReserved i →
    (∃ t : State, exec i s = .next t ∧ NothingElse s t) ∧
    (executing s = true → s.pr.instr = i → ∃ t : State, step s = .next t ∧
      t.ctr.instructions = s.ctr.instructions + 1 ∧ t.ctr.cycles = s.ctr.cycles + 1 ∧
      RegsKept s t ∧ MemKept s t ∧ FlagsKept s t ∧ AddressRegsKept s t ∧ CacheKept s t)) ∧
  (∀ w : Word, 9 ≤ w.toNat / 4096 →
    IsReserved (decode w) ∧ isLoadOp (opcodeOf w) = false ∧ isAluOp (opcodeOf w) = false ∧
    ∀ q : Sel, needs w q = true ↔ q = operandOf w)

/-! ## One step -/

/-- R130, R132: where the next step executes the instruction `i` in the pipeline register, the step is `exec i` on
the state with the cycle begun and the result-ready fields cleared, then the retirement and steps 3 to 6. -/
def Obligations.StepRunsTheLatchedInstruction : Prop :=
  ∀ (s : State) (i : Instr), executing s = true → s.pr.instr = i →
    step s = onNext (exec i (clearReady (beginCycle s))) (fun t => finishCycle (retire t))

/-- R41, R135, R140, R132: the instruction that the cell at `pc` decodes to is latched by a step in which PR holds
nothing that executes or stalls, with `pc` moved past it, and the next step executes it. -/
def Obligations.FetchedWordExecutesInTheNextStep : Prop :=
  ∀ (s : State) (i : Instr), running s = true → s.cacheStallRemaining = 0#3 → s.pr.valid = false →
    s.halted = false → s.pc.toNat < 256 → s.ctr.cycles + 1 < s.params.maxCycles →
    decode (cellAt s.mem (s.pc.setWidth 8)) = i →
    ∃ t : State, step s = .next t ∧ t.pr = latch (cellAt s.mem (s.pc.setWidth 8)) (s.pc.setWidth 8) ∧
      t.pc.toNat = s.pc.toNat + 1 ∧ t.ctr = { s.ctr with cycles := s.ctr.cycles + 1 } ∧
      RegsKept s t ∧ MemKept s t ∧
      step t = onNext (exec i (clearReady (beginCycle t))) (fun u => finishCycle (retire u))

/-- The model's choice of how an instruction is placed (assumption log 4): the step after `withFetchWord` executes
the placed word, and the cell it was latched from holds it. -/
def Obligations.PlacedWordRunsInTheNextStep : Prop :=
  ∀ (s : State) (w : Word),
    executing (s.withFetchWord 16 w.toNat) = true ∧
    cellAt (s.withFetchWord 16 w.toNat).mem (s.pc.setWidth 8) = w ∧
    step (s.withFetchWord 16 w.toNat) =
      onNext (exec (decode w) (clearReady (beginCycle (s.withFetchWord 16 w.toNat))))
        (fun t => finishCycle (retire t))

/-- R131: a gate cycle changes `cycles` and the countdown and nothing else, the outputs being cleared as in every
cycle; a countdown of 4 takes exactly four cycles. -/
def Obligations.GateCyclesOnlyCountDown : Prop :=
  ∀ s : State, running s = true →
    (s.cacheStallRemaining ≠ 0#3 →
      step s = .next { s with
        ctr := { s.ctr with cycles := s.ctr.cycles + 1 }
        cacheStallRemaining := s.cacheStallRemaining - 1#3
        out := CycleOut.clear }) ∧
    (s.cacheStallRemaining = 4#3 → s.ctr.cycles + 4 ≤ s.params.maxCycles → ∀ k : Nat, 1 ≤ k → k ≤ 4 →
      stepN k s = .next { s with
        ctr := { s.ctr with cycles := s.ctr.cycles + k }
        cacheStallRemaining := BitVec.ofNat 3 (4 - k)
        out := CycleOut.clear })

/-- R133, R23 (D10; register 0: D19): a LOAD or STORE that misses is executed and counted in its cycle, keeps PR and `pc`
through four gate cycles, and is not executed again in the resume cycle, which latches the next word, inserts a bubble,
drains or faults as the cycle of a hit would: five more cycles than a hit, one instruction. At `pc = 256` the fetch of
that cycle raises `OutOfBounds` (R171, D8, D32); 257 to 511 are no values of the hardware's `pc`, and that a fetch there
does the same is the model's choice (assumption log 11). -/
def Obligations.MissHoldsTheLoadFiveMoreCycles : Prop :=
  ∀ (s : State) (i : Instr) (r : Sel) (a : Addr), executing s = true → s.pr.instr = i →
    (i = .load r a ∨ i = .store r a) → s.cacheEn = true → cacheHit s a = false →
    s.ctr.cycles + 6 ≤ s.params.maxCycles →
    ∃ u t : State, stepN 5 s = .next u ∧ stepN 6 s = .next t ∧
      (u.ctr.cycles = s.ctr.cycles + 5 ∧
        u.ctr.instructions = s.ctr.instructions + 1 ∧ u.ctr.cacheMisses = s.ctr.cacheMisses + 1 ∧
        u.ctr.cacheStallCycles = s.ctr.cacheStallCycles + 4 ∧ u.cacheStallRemaining = 0#3 ∧ u.pc = s.pc ∧
        u.pr.instr = i ∧ toExecute u = false) ∧
      (i = .load r a → u.mdr = memRead s.mem a ∧ MemKept s u ∧ RegsKeptExcept r s u ∧
        (r ≠ 0#4 → readReg u r = memRead s.mem a)) ∧
      (i = .store r a → u.mdr = readReg s r ∧ RegsKept s u ∧ memRead u.mem a = readReg s r ∧
        ∀ k, k ≠ dataKey a → Memory.readKey u.mem k = Memory.readKey s.mem k) ∧
      (t.ctr.cycles = s.ctr.cycles + 6 ∧ t.ctr.instructions = s.ctr.instructions + 1 ∧
        t.ctr.cacheMisses = s.ctr.cacheMisses + 1 ∧ t.cacheStallRemaining = 0#3 ∧ RegsKept u t ∧ MemKept u t) ∧
      (s.halted = true → t.pr = PipeReg.empty ∧ t.pc = s.pc) ∧
      (s.halted = false → 256 ≤ s.pc.toNat →
        t.fault = some (.outOfBounds .fetch s.pc.toNat) ∧ t.pr = u.pr ∧ t.pc = s.pc) ∧
      (s.halted = false → s.pc.toNat < 256 → PrConsistent s →
        ∀ w : Word, w = cellAt u.mem (s.pc.setWidth 8) →
          (i = .store r a ∨ needs w r = false ∨ s.fwdEn = true → Latches s t w) ∧
          (i = .load r a → needs w r = true → s.fwdEn = false → Bubbles s t))

/-- R136 (D14, D15, D19): the hazard is the comparison of the load's destination with the operand field of the next
word, whatever its opcode, and for an ALU opcode with the register after it. -/
def Obligations.HazardComparesTheNamedFields : Prop :=
  ∀ (s : State) (w : Word),
    hazard s w = true ↔
      s.pr.valid = true ∧ s.pr.isLoad = true ∧
      (s.pr.destReg.toNat = w.toNat / 256 % 16 ∨
        (3 ≤ w.toNat / 4096 ∧ w.toNat / 4096 ≤ 6 ∧ s.pr.destReg.toNat = (w.toNat / 256 % 16 + 1) % 16))

/-- R138. -/
def Obligations.ForwardAnswersTheReadyResult : Prop :=
  ∀ (s : State) (req : Sel) (v : Byte),
    forward s req = some v ↔
      s.fwdEn = true ∧ s.pr.valid = true ∧ s.pr.producesResult = true ∧ s.pr.resultReady = true ∧
      s.pr.destReg = req ∧ v = s.pr.resultValue

/-- R137, R139, R196, T9 (D14, D19): a LOAD whose destination the next word names. With forwarding one forward is counted,
register and loaded byte are shown and the next word is latched; without, one bubble is inserted, one stall counted and
`pc` kept, and the following cycle latches the word. With the cache off or on a hit this is the LOAD's own cycle; on a
miss it is the resume cycle, the sixth, and none of the five before counts or shows any of it. -/
def Obligations.LoadUseForwardsOrStallsOnce : Prop :=
  ∀ (s : State) (r : Sel) (a : Addr) (w : Word) (d : Byte), executing s = true → PrConsistent s →
    s.pr.instr = .load r a → s.halted = false → s.pc.toNat < 256 →
    w = cellAt s.mem (s.pc.setWidth 8) → needs w r = true →
    d = (if s.cacheEn = true ∧ cacheHit s a = true then (lineAt s (cacheIndex a)).data else memRead s.mem a) →
    (s.cacheEn = false ∨ cacheHit s a = true → s.ctr.cycles + 2 ≤ s.params.maxCycles →
      ∃ t : State, step s = .next t ∧ t.ctr.cycles = s.ctr.cycles + 1 ∧
        t.ctr.instructions = s.ctr.instructions + 1 ∧ t.mdr = d ∧ LoadUseResolved s t r d w) ∧
    (s.cacheEn = true → cacheHit s a = false → s.ctr.cycles + 7 ≤ s.params.maxCycles →
      (∀ k : Nat, 1 ≤ k → k ≤ 5 → ∃ u : State, stepN k s = .next u ∧ u.ctr.forwards = s.ctr.forwards ∧
        u.ctr.hazardStalls = s.ctr.hazardStalls ∧ u.out.fwdActive = false ∧ u.out.stalled = false) ∧
      ∃ t : State, stepN 6 s = .next t ∧ t.ctr.cycles = s.ctr.cycles + 6 ∧
        t.ctr.instructions = s.ctr.instructions + 1 ∧ t.mdr = d ∧ LoadUseResolved s t r d w)

/-- R120, R140 (D13): the cycle that executes a JMP latches the target, whatever stood after the JMP: no delay slot, no
extra cycle. -/
def Obligations.JumpLatchesItsTargetInTheSameCycle : Prop :=
  ∀ (s : State) (operand : Sel) (a : Addr), executing s = true → s.halted = false →
    s.pr.instr = .jmp operand a →
    ∃ t : State, step s = .next t ∧ t.pr = latch (cellAt s.mem a) a ∧ t.pc.toNat = a.toNat + 1 ∧
      t.ctr = { s.ctr with cycles := s.ctr.cycles + 1, instructions := s.ctr.instructions + 1,
                           flushes := s.ctr.flushes + 1 } ∧
      t.out.flushed = true ∧ t.out.stalled = false ∧ RegsKept s t ∧ MemKept s t ∧ FlagsKept s t

/-- R121, R134, R150 (D12): the cycle that executes a HALT ends terminated, with PR empty, `pc` where it was, the HALT
counted, no fault even past the end of memory; the state then stays. -/
def Obligations.HaltTerminatesInItsCycle : Prop :=
  ∀ (s : State) (operand : Sel) (imm : Byte), executing s = true → s.pr.instr = .halt operand imm →
    ∃ t : State, step s = .next t ∧ terminated t = true ∧ t.pr = PipeReg.empty ∧ t.pc = s.pc ∧
      t.ctr = { s.ctr with cycles := s.ctr.cycles + 1, instructions := s.ctr.instructions + 1 } ∧
      RegsKept s t ∧ MemKept s t ∧ FlagsKept s t ∧ ∀ k : Nat, stepN k t = .next t

/-- R59, R43 (D1; derived there): a STORE to the very next cell changes the immediate that cell's instruction is
latched with, and neither its opcode nor its operand. -/
def Obligations.StoreIsSeenByTheNextFetch : Prop :=
  ∀ (s : State) (r : Sel) (a : Addr), executing s = true → PrConsistent s → s.pr.instr = .store r a →
    s.cacheEn = false → s.halted = false → s.pc = a.setWidth 9 →
    ∃ t : State, step s = .next t ∧ t.pr.valid = true ∧ t.pr.pc = a ∧ t.pr.imm = readReg s r ∧
      t.pr.opcode = opcodeOf (cellAt s.mem a) ∧ t.pr.operand = operandOf (cellAt s.mem a)

/-- R171, R170, R178 (D8, D32): a cycle that reaches the fetch with `pc = 256` raises `OutOfBounds` after its execute
step, whose effects and count stay; PR and `pc` are kept; cell 0 is not read instead. The cycle of an instruction other
than JMP and HALT reaches the fetch unless the instruction misses (R133). -/
def Obligations.FetchPastTheEndRaisesOutOfBounds : Prop :=
  ∀ s : State, running s = true → s.cacheStallRemaining = 0#3 → s.pc.toNat = 256 → s.halted = false →
    (toExecute s = false →
      step s = .next (raise (.outOfBounds .fetch 256) (beginCycle s))) ∧
    (∀ i : Instr, toExecute s = true → s.pr.instr = i → (∀ (o : Sel) (a : Addr), i ≠ .jmp o a) →
      (∀ (o : Sel) (m : Byte), i ≠ .halt o m) →
      (∀ (r : Sel) (a : Addr), i = .load r a ∨ i = .store r a → s.cacheEn = false ∨ cacheHit s a = true) →
      ∃ u : State, exec i (clearReady (beginCycle s)) = .next u ∧
        step s = .next (raise (.outOfBounds .fetch 256) (retire u)) ∧ u.pc = s.pc)

/-- R172, R150, R170 (D18; what a step answers where the spec has no transition: U19, assumption log 7): a state that is
terminated or faulted stays for ever, and one that has reached the cap gets `NonTermination` and nothing else. -/
def Obligations.EndedRunsStayAndTheCapIsRaised : Prop :=
  (∀ (s : State) (k : Nat), stuck s = true → stepN k s = .next s) ∧
  (∀ s : State, stuck s = false → s.params.maxCycles ≤ s.ctr.cycles →
    step s = .next { s with fault := some (.nonTermination s.ctr.cycles) } ∧
    ∀ k : Nat, stepN (k + 1) s = .next { s with fault := some (.nonTermination s.ctr.cycles) })

/-! ## What only some instructions can do -/

/-- R14: in a step `pc` changes only by the advance and by an executed JMP. -/
def Obligations.OnlyTheAdvanceAndJumpMovePc : Prop :=
  ∀ s t : State, step s = .next t →
    t.pc = s.pc ∨ t.pc = s.pc + 1#9 ∨
    (executing s = true ∧ ∃ (o : Sel) (a : Addr), s.pr.instr = .jmp o a ∧
      (t.pc = a.setWidth 9 ∨ t.pc = a.setWidth 9 + 1#9))

/-- R17, R95 (D6): only an executed ADD or SUB changes a flag. -/
def Obligations.OnlyAddAndSubChangeFlags : Prop :=
  ∀ s t : State, step s = .next t → ¬ FlagsKept s t →
    executing s = true ∧ ∃ (r : Sel) (m : Byte), s.pr.instr = .add r m ∨ s.pr.instr = .sub r m

/-- R12: a step changes a general register only where it executes a LOAD or an ALU instruction that names it. -/
def Obligations.OnlyLoadAndAluWriteTheirRegister : Prop :=
  ∀ (s t : State) (q : Sel), step s = .next t → readReg t q ≠ readReg s q →
    executing s = true ∧ q ≠ 0#4 ∧ s.pr.instr.operand = q ∧
      ((∃ a, s.pr.instr = .load q a) ∨ (∃ m, s.pr.instr = .add q m) ∨ (∃ m, s.pr.instr = .sub q m) ∨
        (∃ m, s.pr.instr = .mul q m) ∨ (∃ m, s.pr.instr = .div q m))

/-- R43, R45, R59 (D1): a step changes a byte of memory only where it executes a STORE, and then only the data field
it names: no step changes an opcode or operand byte. -/
def Obligations.OnlyStoreChangesMemory : Prop :=
  ∀ (s t : State) (k : Nat), step s = .next t → Memory.readKey t.mem k ≠ Memory.readKey s.mem k →
    executing s = true ∧ ∃ (r : Sel) (a : Addr), s.pr.instr = .store r a ∧ k = dataKey a ∧
      Memory.readKey t.mem k = readReg s r

/-- R16 (D16): `mar` and `mdr` change only where a LOAD or STORE executes, and `mar` then holds its address. -/
def Obligations.OnlyLoadAndStoreWriteMarAndMdr : Prop :=
  ∀ s t : State, step s = .next t → ¬ AddressRegsKept s t →
    executing s = true ∧ ∃ (r : Sel) (a : Addr), (s.pr.instr = .load r a ∨ s.pr.instr = .store r a) ∧ t.mar = a

/-- R15, R127: `halted` changes only from 0 to 1, where a HALT executes. -/
def Obligations.OnlyHaltChangesTheHaltFlag : Prop :=
  ∀ s t : State, step s = .next t → t.halted ≠ s.halted →
    executing s = true ∧ t.halted = true ∧ ∃ (o : Sel) (m : Byte), s.pr.instr = .halt o m

/-- R18, R35: no step changes the configuration or a parameter. -/
def Obligations.ConfigurationIsConstant : Prop :=
  ∀ (s t : State) (k : Nat), stepN k s = .next t →
    t.fwdEn = s.fwdEn ∧ t.cacheEn = s.cacheEn ∧ t.params = s.params

/-- R31: no counter goes down in a step, no instruction's effect depends on a counter, and raising a condition leaves
the counters. -/
def Obligations.CountersOnlyRiseAndAreNeverRead : Prop :=
  (∀ s t : State, step s = .next t →
    s.ctr.cycles ≤ t.ctr.cycles ∧ s.ctr.instructions ≤ t.ctr.instructions ∧
    s.ctr.hazardStalls ≤ t.ctr.hazardStalls ∧ s.ctr.cacheStallCycles ≤ t.ctr.cacheStallCycles ∧
    s.ctr.flushes ≤ t.ctr.flushes ∧ s.ctr.forwards ≤ t.ctr.forwards ∧
    s.ctr.cacheHits ≤ t.ctr.cacheHits ∧ s.ctr.cacheMisses ≤ t.ctr.cacheMisses) ∧
  (∀ (i : Instr) (s t : State) (k : Counters), exec i s = .next t →
    ∃ u : State, exec i { s with ctr := k } = .next u ∧ { u with ctr := t.ctr } = t) ∧
  (∀ (c : Fault) (s : State), (raise c s).ctr = s.ctr)

/-- R37 (derived there), R12: what an instruction does to the registers, the memory and the flags depends on the
registers, the memory, the flags and the sense of the borrow alone, where the cache is coherent. -/
def Obligations.ProgramsCannotSeeHiddenState : Prop :=
  ∀ (i : Instr) (s t s' t' : State), Coherent s → Coherent t → s.regs = t.regs → s.mem = t.mem → s.z = t.z →
    s.c = t.c → s.params.subCarry = t.params.subCarry → exec i s = .next s' → exec i t = .next t' →
    s'.regs = t'.regs ∧ s'.mem = t'.mem ∧ s'.z = t'.z ∧ s'.c = t'.c

/-! ## Reset -/

/-- R36, R190 (values: D9; the tag and data of the lines, which are set to 0, are unobservable: U13): reset with any
configuration, image and parameters leaves every item of the table at its value. -/
def Obligations.ResetLeavesTheTableOfValues : Prop :=
  ∀ (f c : Bool) (image : Memory) (p : Params) (s : State), s = State.resetWith f c image p →
    (∀ q : Sel, readReg s q = 0#8) ∧ s.pc.toNat = 0 ∧ s.halted = false ∧ s.mar = 0#8 ∧ s.mdr = 0#8 ∧ s.z = false ∧
    s.c = false ∧ s.fwdEn = f ∧ s.cacheEn = c ∧ s.cacheStallRemaining.toNat = 0 ∧ s.pr = PipeReg.empty ∧
    (∀ i, lineAt s i = { valid := false, tag := 0#5, data := 0#8 }) ∧ s.ctr = Counters.zero ∧ s.fault = none ∧
    (∀ a, cellAt s.mem a = cellAt image a) ∧ s.out = CycleOut.clear

/-- R193 (D9): the first cycle after reset only latches cell 0, and the next executes it. -/
def Obligations.FirstCycleOnlyFetchesCellZero : Prop :=
  ∀ (f c : Bool) (image : Memory) (p : Params), 0 < p.maxCycles →
    ∃ t : State, step (State.resetWith f c image p) = .next t ∧ t.pr = latch (cellAt image 0#8) 0#8 ∧
      t.pc.toNat = 1 ∧ t.ctr = { Counters.zero with cycles := 1 } ∧ (∀ q, readReg t q = 0#8) ∧
      (1 < p.maxCycles → executing t = true)

/-- R192, R36, R173 (D9, D21): a cell no record fills is zero; a record gives its cell unless a later record is of the
same cell (that the later one stands is the model's choice, assumption log 17); a malformed field reaches the core as 0.
The image has the canonical form of memory (the model's own, assumption log 5). -/
def Obligations.ImageHoldsTheLoaderRecords : Prop :=
  (∀ (rs : List LoaderRecord) (a : Addr), (∀ r ∈ rs, r.addr ≠ a) → cellAt (imageOf rs) a = 0#16) ∧
  (∀ (rs rs' : List LoaderRecord) (r : LoaderRecord), (∀ q ∈ rs', q.addr ≠ r.addr) →
    cellAt (imageOf (rs ++ r :: rs')) r.addr = r.cell) ∧
  (∀ r : LoaderRecord, r.field = none → immOf r.cell = 0#8 ∧ r.cell.extractLsb' 8 8 = r.high) ∧
  (∀ rs : List LoaderRecord, Memory.wf (imageOf rs) = true)

/-! ## Invariants -/

/-- The canonical form of memory (the model's own, assumption log 5) is kept by every step. -/
def Obligations.StepKeepsMemoryCanonical : Prop :=
  ∀ s t : State, Memory.wf s.mem = true → step s = .next t → Memory.wf t.mem = true

/-- R25, R54, R55 (derived there; D27): every step keeps each valid line equal to the cell it maps, and an unused cache
untouched. -/
def Obligations.StepKeepsTheCacheCoherent : Prop :=
  ∀ s t : State, Coherent s ∧ CacheIdle s → step s = .next t → Coherent t ∧ CacheIdle t

/-- R13, R14 (D8): every step keeps `pc` in 0 to 256 and one past the instruction in PR. -/
def Obligations.StepKeepsPcInRange : Prop :=
  ∀ s t : State, PcInRange s ∧ PcFollowsPr s → step s = .next t → PcInRange t ∧ PcFollowsPr t

/-- R53, R19 (derived there; D11): every step keeps the stall count at four a miss and the countdown in 0 to 4. -/
def Obligations.StepKeepsMissAccounting : Prop :=
  ∀ s t : State, MissAccounting s ∧ StallInRange s → step s = .next t → MissAccounting t ∧ StallInRange t

/-- R20, R22, R137 (D25): every step keeps the pipeline register consistent; from such a state a step with forwarding
on never stalls on a hazard, and a step with forwarding off never forwards. -/
def Obligations.StepKeepsPrConsistentAndHazardsPure : Prop :=
  ∀ s t : State, PrConsistent s → step s = .next t →
    PrConsistent t ∧ (s.fwdEn = true → t.ctr.hazardStalls = s.ctr.hazardStalls) ∧
    (s.fwdEn = false → t.ctr.forwards = s.ctr.forwards)

/-- R134, R41, R135 (D12): with the cache coherent and `pc` past PR, every step leaves a halted machine drained and an
instruction that has not executed equal to the word of its cell. -/
def Obligations.StepKeepsTheFlowInvariant : Prop :=
  ∀ s t : State, FlowInv s → step s = .next t → FlowInv t

/-- R36, R190 (D9), with R25, R13, R53 and R22 for the invariants: they hold right after reset, in every configuration.
The canonical form of memory, in the last two clauses, is the model's own (assumption log 5), and that `State.reset` has
the empty image is the model's choice (assumption log 4). -/
def Obligations.ResetMeetsTheInvariants : Prop :=
  ∀ (f c : Bool) (image : Memory) (p : Params) (s : State), s = State.resetWith f c image p →
    FlowInv s ∧ PcInRange s ∧ MissAccounting s ∧ StallInRange s ∧ PrConsistent s ∧
    (Memory.wf image = true → Memory.wf s.mem = true) ∧ Memory.wf State.reset.mem = true

/-! ## Runs -/

/-- R160, R161. -/
def Obligations.ReportedQuantities : Prop :=
  ∀ k : Counters,
    (k.instructions = 0 → cpi k = 0) ∧
    (k.instructions ≠ 0 → cpi k * (k.instructions : ℚ) = (k.cycles : ℚ)) ∧
    totalStalls k = k.hazardStalls + k.cacheStallCycles

/-- R151, R178 (D18, D32): every run ends, within its cap, in exactly one of the three ways. -/
def Obligations.EveryRunEndsInOneOfThreeWays : Prop :=
  ∀ (f c : Bool) (image : Memory) (p : Params), ∃ t : State,
    run f c image p = .next t ∧ stuck t = true ∧ t.ctr.cycles ≤ p.maxCycles ∧
    ((terminated t = true ∧ t.fault = none) ∨
     (terminated t = false ∧ t.fault = some (.outOfBounds .fetch 256)) ∨
     (terminated t = false ∧ t.fault = some (.nonTermination p.maxCycles) ∧ t.ctr.cycles = p.maxCycles))

/-- R163 (derived there): the cycle-count law of every terminated run. -/
def Obligations.CycleCountLaw : Prop :=
  ∀ (f c : Bool) (image : Memory) (p : Params) (k : Nat) (t : State),
    stepN k (State.resetWith f c image p) = .next t → terminated t = true →
    t.ctr.cycles = 1 + t.ctr.instructions + t.ctr.hazardStalls + 5 * t.ctr.cacheMisses ∧
    t.ctr.cycles =
      1 + t.ctr.instructions + t.ctr.hazardStalls + t.ctr.cacheStallCycles + t.ctr.cacheMisses

/-- R57, R144, R165 (derived there): each step of the pipeline leaves the values a program computes as they are or does
to them what one instruction of the sequential machine does; it executes an instruction exactly in the second case. -/
def Obligations.PipelineRefinesTheSequentialMachine : Prop :=
  ∀ s t : State, FlowInv s → step s = .next t →
    (executing s = false ∧ view t = view s) ∨
    (executing s = true ∧ view t = seqStep s.params.subCarry (view s))

/-- R165 (derived there): two terminated runs of one image end with the same values, whatever their configurations. -/
def Obligations.ValuesDoNotDependOnTheConfiguration : Prop :=
  ∀ (f c f' c' : Bool) (image : Memory) (p p' : Params) (k k' : Nat) (t t' : State),
    p.subCarry = p'.subCarry →
    stepN k (State.resetWith f c image p) = .next t → terminated t = true →
    stepN k' (State.resetWith f' c' image p') = .next t' → terminated t' = true →
    t.regs = t'.regs ∧ t.mem = t'.mem ∧ t.z = t'.z ∧ t.c = t'.c ∧ t.mar = t'.mar ∧ t.mdr = t'.mdr ∧
    t.pc = t'.pc ∧ t.ctr.instructions = t'.ctr.instructions ∧ t.ctr.flushes = t'.ctr.flushes
end

