-- ==== Sys2Proof/Laws/Memory.lean ====
section
/-! SUPPORT. The laws of memory: a byte read after a write, the bytes a write leaves alone, and the canonical form,
which every memory operation keeps. -/

namespace Sys2Proof.Laws

open Sys2Proof Sys2Proof.Machine

theorem readKey_eraseKey_same (m : Memory) (k : Nat) :
    Memory.readKey (Memory.eraseKey m k) k = unfilledByte := by
  induction m with
  | nil => rfl
  | cons e rest ih =>
    obtain ⟨j, v⟩ := e
    by_cases h : j = k
    · simpa [Memory.eraseKey, h] using ih
    · simpa [Memory.eraseKey, Memory.readKey, h] using ih

theorem readKey_eraseKey_other (m : Memory) {k k' : Nat} (hk : k' ≠ k) :
    Memory.readKey (Memory.eraseKey m k) k' = Memory.readKey m k' := by
  induction m with
  | nil => rfl
  | cons e rest ih =>
    obtain ⟨j, v⟩ := e
    by_cases h : j = k
    · have hj : j ≠ k' := fun h' => hk (h'.symm.trans h)
      simpa [Memory.eraseKey, Memory.readKey, h, hj, Ne.symm hk] using ih
    · by_cases h' : j = k'
      · subst h'
        simp [Memory.eraseKey, Memory.readKey, hk]
      · simpa [Memory.eraseKey, Memory.readKey, h, h'] using ih

theorem readKey_insertKey_same (m : Memory) (k : Nat) (v : Byte)
    (hn : ∀ e ∈ m, e.1 ≠ k) : Memory.readKey (Memory.insertKey m k v) k = v := by
  induction m with
  | nil => simp [Memory.insertKey, Memory.readKey]
  | cons e rest ih =>
    obtain ⟨j, w⟩ := e
    have hj : j ≠ k := hn (j, w) (by simp)
    by_cases h : k < j
    · simp [Memory.insertKey, Memory.readKey, h]
    · simpa [Memory.insertKey, Memory.readKey, h, hj] using ih (fun e he => hn e (by simp [he]))

theorem readKey_insertKey_other (m : Memory) {k k' : Nat} (v : Byte) (hk : k' ≠ k) :
    Memory.readKey (Memory.insertKey m k v) k' = Memory.readKey m k' := by
  induction m with
  | nil => simp [Memory.insertKey, Memory.readKey, Ne.symm hk]
  | cons e rest ih =>
    obtain ⟨j, w⟩ := e
    by_cases h : k < j
    · simp [Memory.insertKey, Memory.readKey, h, Ne.symm hk]
    · simp [Memory.insertKey, Memory.readKey, h, ih]

theorem eraseKey_no_entry (m : Memory) (k : Nat) : ∀ e ∈ Memory.eraseKey m k, e.1 ≠ k := by
  induction m with
  | nil => simp [Memory.eraseKey]
  | cons e rest ih =>
    obtain ⟨j, v⟩ := e
    by_cases h : j = k
    · simpa [Memory.eraseKey, h] using ih
    · intro e he
      simp only [Memory.eraseKey, h, if_false, List.mem_cons] at he
      rcases he with rfl | he
      · exact h
      · exact ih e he

/-- A byte reads as it was last written, in every memory. -/
@[simp] theorem readKey_writeKey_same (m : Memory) (k : Nat) (v : Byte) :
    Memory.readKey (Memory.writeKey m k v) k = v := by
  by_cases h : v = unfilledByte
  · simp [Memory.writeKey, h, readKey_eraseKey_same]
  · simp only [Memory.writeKey, h, if_false]
    exact readKey_insertKey_same _ _ _ (eraseKey_no_entry m k)

/-- A write leaves every other byte as it was, in every memory. -/
theorem readKey_writeKey_other (m : Memory) {k k' : Nat} (v : Byte) (hk : k' ≠ k) :
    Memory.readKey (Memory.writeKey m k v) k' = Memory.readKey m k' := by
  by_cases h : v = unfilledByte
  · simp [Memory.writeKey, h, readKey_eraseKey_other m hk]
  · simp [Memory.writeKey, h, readKey_insertKey_other _ v hk, readKey_eraseKey_other m hk]

/-! ## Keys of cells -/

theorem dataKey_inj {a b : Addr} : dataKey a = dataKey b ↔ a = b := by
  simp only [dataKey]; constructor
  · intro h; apply BitVec.eq_of_toNat_eq; omega
  · rintro rfl; rfl

theorem codeKey_ne_dataKey (a b : Addr) : codeKey a ≠ dataKey b := by simp only [codeKey, dataKey]; omega

@[simp] theorem memRead_memWrite_same (m : Memory) (a : Addr) (v : Byte) : memRead (memWrite m a v) a = v := by
  simp [memRead, memWrite]

theorem memRead_memWrite_other (m : Memory) {a b : Addr} (v : Byte) (h : b ≠ a) :
    memRead (memWrite m a v) b = memRead m b :=
  readKey_writeKey_other m v (fun hk => h (dataKey_inj.mp hk))

/-- A data write never changes the opcode and operand byte of a cell (R43). -/
@[simp] theorem readKey_codeKey_memWrite (m : Memory) (a b : Addr) (v : Byte) :
    Memory.readKey (memWrite m a v) (codeKey b) = Memory.readKey m (codeKey b) :=
  readKey_writeKey_other m v (codeKey_ne_dataKey b a)

/-! ## The canonical form -/

theorem keysFrom_mono {m : Memory} {k k' : Nat} (h : k' ≤ k) (hm : Memory.keysFrom k m = true) :
    Memory.keysFrom k' m = true := by
  cases m with
  | nil => rfl
  | cons e rest =>
    obtain ⟨j, v⟩ := e
    simp only [Memory.keysFrom, Bool.and_eq_true, decide_eq_true_eq] at hm ⊢
    exact ⟨⟨⟨by omega, hm.1.1.2⟩, hm.1.2⟩, hm.2⟩

theorem keysFrom_eraseKey {m : Memory} {k : Nat} (d : Nat) (hm : Memory.keysFrom k m = true) :
    Memory.keysFrom k (Memory.eraseKey m d) = true := by
  induction m generalizing k with
  | nil => rfl
  | cons e rest ih =>
    obtain ⟨j, v⟩ := e
    simp only [Memory.keysFrom, Bool.and_eq_true, decide_eq_true_eq] at hm
    by_cases h : j = d
    · simp only [Memory.eraseKey, h, if_true]
      exact keysFrom_mono (by omega) (ih hm.2)
    · simp only [Memory.eraseKey, h, if_false, Memory.keysFrom, Bool.and_eq_true, decide_eq_true_eq]
      exact ⟨hm.1, ih hm.2⟩

theorem keysFrom_insertKey {m : Memory} {k d : Nat} {v : Byte} (hm : Memory.keysFrom k m = true)
    (hd : ∀ e ∈ m, e.1 ≠ d) (hk : k ≤ d) (hb : d < 2 * memCells) (hv : v ≠ unfilledByte) :
    Memory.keysFrom k (Memory.insertKey m d v) = true := by
  induction m generalizing k with
  | nil => simp [Memory.insertKey, Memory.keysFrom, hk, hb, hv]
  | cons e rest ih =>
    obtain ⟨j, w⟩ := e
    simp only [Memory.keysFrom, Bool.and_eq_true, decide_eq_true_eq] at hm
    have hj : j ≠ d := hd (j, w) (by simp)
    by_cases h : d < j
    · simp only [Memory.insertKey, h, if_true, Memory.keysFrom, Bool.and_eq_true, decide_eq_true_eq]
      exact ⟨⟨⟨hk, hb⟩, by simpa using hv⟩, ⟨⟨by omega, hm.1.1.2⟩, hm.1.2⟩, hm.2⟩
    · simp only [Memory.insertKey, h, if_false, Memory.keysFrom, Bool.and_eq_true, decide_eq_true_eq]
      exact ⟨hm.1, ih hm.2 (fun e he => hd e (by simp [he])) (by omega)⟩

/-- A write inside the 256 cells keeps the canonical form. -/
theorem writeKey_wf {m : Memory} {k : Nat} (v : Byte) (hm : Memory.wf m = true) (hk : k < 2 * memCells) :
    Memory.wf (Memory.writeKey m k v) = true := by
  by_cases h : v = unfilledByte
  · simpa [Memory.writeKey, Memory.wf, h] using keysFrom_eraseKey k hm
  · simp only [Memory.writeKey, Memory.wf, h, if_false]
    exact keysFrom_insertKey (keysFrom_eraseKey k hm) (eraseKey_no_entry m k) (Nat.zero_le k) hk h

theorem dataKey_lt (a : Addr) : dataKey a < 2 * memCells := by
  have := a.isLt; simp only [dataKey, memCells]; omega

theorem codeKey_lt (a : Addr) : codeKey a < 2 * memCells := by
  have := a.isLt; simp only [codeKey, memCells]; omega

theorem memWrite_wf {m : Memory} (a : Addr) (v : Byte) (hm : Memory.wf m = true) :
    Memory.wf (memWrite m a v) = true := writeKey_wf v hm (dataKey_lt a)

theorem placeCell_wf {m : Memory} (a : Addr) (w : Word) (hm : Memory.wf m = true) :
    Memory.wf (placeCell m a w) = true := writeKey_wf _ (writeKey_wf _ hm (codeKey_lt a)) (dataKey_lt a)

theorem reset_mem_wf : Memory.wf State.reset.mem = true := rfl

/-! ## Whole cells -/

theorem append_extract (w : Word) : w.extractLsb' 8 8 ++ w.extractLsb' 0 8 = w := by
  apply BitVec.eq_of_getLsbD_eq
  intro i hi
  simp only [BitVec.getLsbD_append, BitVec.getLsbD_extractLsb']
  by_cases h : i < 8
  · simp [h]
  · simp [h, show i - 8 < 8 by omega, show 8 + (i - 8) = i by omega]

@[simp] theorem cellAt_placeCell_same (m : Memory) (a : Addr) (w : Word) : cellAt (placeCell m a w) a = w := by
  simp only [cellAt, placeCell, readKey_writeKey_same,
    readKey_writeKey_other _ _ (codeKey_ne_dataKey a a), append_extract]

theorem cellAt_placeCell_other (m : Memory) {a b : Addr} (w : Word) (h : b ≠ a) :
    cellAt (placeCell m a w) b = cellAt m b := by
  have hb : b.toNat ≠ a.toNat := fun e => h (BitVec.eq_of_toNat_eq e)
  simp only [cellAt, placeCell]
  rw [readKey_writeKey_other, readKey_writeKey_other, readKey_writeKey_other, readKey_writeKey_other]
  all_goals simp only [codeKey, dataKey]; omega

/-! ## The fields of a word of two bytes -/

theorem getLsbD_byte_append (h l : Byte) (i : Nat) :
    (h ++ l).getLsbD i = if i < 8 then l.getLsbD i else h.getLsbD (i - 8) := BitVec.getLsbD_append

theorem extract_low_byte (h l : Byte) : (h ++ l).extractLsb' 0 8 = l := by
  apply BitVec.eq_of_getLsbD_eq
  intro i hi
  rw [BitVec.getLsbD_extractLsb', getLsbD_byte_append]
  simp [hi]

theorem extract_high_byte (h l : Byte) : (h ++ l).extractLsb' 8 8 = h := by
  apply BitVec.eq_of_getLsbD_eq
  intro i hi
  rw [BitVec.getLsbD_extractLsb', getLsbD_byte_append]
  simp [hi]

theorem extract_high_nibble (h l : Byte) : (h ++ l).extractLsb' 12 4 = h.extractLsb' 4 4 := by
  apply BitVec.eq_of_getLsbD_eq
  intro i hi
  rw [BitVec.getLsbD_extractLsb', BitVec.getLsbD_extractLsb', getLsbD_byte_append]
  simp [hi, show ¬ 12 + i < 8 by omega, show 12 + i - 8 = 4 + i by omega]

theorem extract_operand_nibble (h l : Byte) : (h ++ l).extractLsb' 8 4 = h.extractLsb' 0 4 := by
  apply BitVec.eq_of_getLsbD_eq
  intro i hi
  rw [BitVec.getLsbD_extractLsb', BitVec.getLsbD_extractLsb', getLsbD_byte_append]
  simp [hi, show ¬ 8 + i < 8 by omega]

end Sys2Proof.Laws
end

