-- ==== Sys2Proof/Laws/State.lean ====
section
/-! SUPPORT. One lemma for each field of `State` under each named update, so that no later proof unfolds a record
update. -/

namespace Sys2Proof.Laws

open Sys2Proof Sys2Proof.Machine


/-! ## writeReg -/

@[simp] theorem writeReg_regs (s : State) (r : Sel) (v : Byte) :
    (writeReg s r v).regs = if r = 0#4 then s.regs else s.regs.set r.toNat v (by have := r.isLt; omega) := rfl
@[simp] theorem writeReg_pc (s : State) (r : Sel) (v : Byte) : (writeReg s r v).pc = s.pc := rfl
@[simp] theorem writeReg_z (s : State) (r : Sel) (v : Byte) : (writeReg s r v).z = s.z := rfl
@[simp] theorem writeReg_c (s : State) (r : Sel) (v : Byte) : (writeReg s r v).c = s.c := rfl
@[simp] theorem writeReg_halted (s : State) (r : Sel) (v : Byte) : (writeReg s r v).halted = s.halted := rfl
@[simp] theorem writeReg_mar (s : State) (r : Sel) (v : Byte) : (writeReg s r v).mar = s.mar := rfl
@[simp] theorem writeReg_mdr (s : State) (r : Sel) (v : Byte) : (writeReg s r v).mdr = s.mdr := rfl
@[simp] theorem writeReg_fwdEn (s : State) (r : Sel) (v : Byte) : (writeReg s r v).fwdEn = s.fwdEn := rfl
@[simp] theorem writeReg_cacheEn (s : State) (r : Sel) (v : Byte) : (writeReg s r v).cacheEn = s.cacheEn := rfl
@[simp] theorem writeReg_cacheStallRemaining (s : State) (r : Sel) (v : Byte) :
    (writeReg s r v).cacheStallRemaining = s.cacheStallRemaining := rfl
@[simp] theorem writeReg_fault (s : State) (r : Sel) (v : Byte) : (writeReg s r v).fault = s.fault := rfl
@[simp] theorem writeReg_ctr (s : State) (r : Sel) (v : Byte) : (writeReg s r v).ctr = s.ctr := rfl
@[simp] theorem writeReg_pr (s : State) (r : Sel) (v : Byte) : (writeReg s r v).pr = s.pr := rfl
@[simp] theorem writeReg_lines (s : State) (r : Sel) (v : Byte) : (writeReg s r v).lines = s.lines := rfl
@[simp] theorem writeReg_mem (s : State) (r : Sel) (v : Byte) : (writeReg s r v).mem = s.mem := rfl
@[simp] theorem writeReg_out (s : State) (r : Sel) (v : Byte) :
    (writeReg s r v).out = { s.out with r0WriteIgnored := s.out.r0WriteIgnored || r == 0#4 } := rfl
@[simp] theorem writeReg_params (s : State) (r : Sel) (v : Byte) : (writeReg s r v).params = s.params := rfl

/-! ## setMar -/

@[simp] theorem setMar_regs (s : State) (ea : Addr) : (setMar s ea).regs = s.regs := rfl
@[simp] theorem setMar_pc (s : State) (ea : Addr) : (setMar s ea).pc = s.pc := rfl
@[simp] theorem setMar_z (s : State) (ea : Addr) : (setMar s ea).z = s.z := rfl
@[simp] theorem setMar_c (s : State) (ea : Addr) : (setMar s ea).c = s.c := rfl
@[simp] theorem setMar_halted (s : State) (ea : Addr) : (setMar s ea).halted = s.halted := rfl
@[simp] theorem setMar_mar (s : State) (ea : Addr) : (setMar s ea).mar = ea := rfl
@[simp] theorem setMar_mdr (s : State) (ea : Addr) : (setMar s ea).mdr = s.mdr := rfl
@[simp] theorem setMar_fwdEn (s : State) (ea : Addr) : (setMar s ea).fwdEn = s.fwdEn := rfl
@[simp] theorem setMar_cacheEn (s : State) (ea : Addr) : (setMar s ea).cacheEn = s.cacheEn := rfl
@[simp] theorem setMar_cacheStallRemaining (s : State) (ea : Addr) :
    (setMar s ea).cacheStallRemaining = s.cacheStallRemaining := rfl
@[simp] theorem setMar_fault (s : State) (ea : Addr) : (setMar s ea).fault = s.fault := rfl
@[simp] theorem setMar_ctr (s : State) (ea : Addr) : (setMar s ea).ctr = s.ctr := rfl
@[simp] theorem setMar_pr (s : State) (ea : Addr) : (setMar s ea).pr = s.pr := rfl
@[simp] theorem setMar_lines (s : State) (ea : Addr) : (setMar s ea).lines = s.lines := rfl
@[simp] theorem setMar_mem (s : State) (ea : Addr) : (setMar s ea).mem = s.mem := rfl
@[simp] theorem setMar_out (s : State) (ea : Addr) : (setMar s ea).out = s.out := rfl
@[simp] theorem setMar_params (s : State) (ea : Addr) : (setMar s ea).params = s.params := rfl

/-! ## setMdr -/

@[simp] theorem setMdr_regs (s : State) (d : Byte) : (setMdr s d).regs = s.regs := rfl
@[simp] theorem setMdr_pc (s : State) (d : Byte) : (setMdr s d).pc = s.pc := rfl
@[simp] theorem setMdr_z (s : State) (d : Byte) : (setMdr s d).z = s.z := rfl
@[simp] theorem setMdr_c (s : State) (d : Byte) : (setMdr s d).c = s.c := rfl
@[simp] theorem setMdr_halted (s : State) (d : Byte) : (setMdr s d).halted = s.halted := rfl
@[simp] theorem setMdr_mar (s : State) (d : Byte) : (setMdr s d).mar = s.mar := rfl
@[simp] theorem setMdr_mdr (s : State) (d : Byte) : (setMdr s d).mdr = d := rfl
@[simp] theorem setMdr_fwdEn (s : State) (d : Byte) : (setMdr s d).fwdEn = s.fwdEn := rfl
@[simp] theorem setMdr_cacheEn (s : State) (d : Byte) : (setMdr s d).cacheEn = s.cacheEn := rfl
@[simp] theorem setMdr_cacheStallRemaining (s : State) (d : Byte) :
    (setMdr s d).cacheStallRemaining = s.cacheStallRemaining := rfl
@[simp] theorem setMdr_fault (s : State) (d : Byte) : (setMdr s d).fault = s.fault := rfl
@[simp] theorem setMdr_ctr (s : State) (d : Byte) : (setMdr s d).ctr = s.ctr := rfl
@[simp] theorem setMdr_pr (s : State) (d : Byte) : (setMdr s d).pr = s.pr := rfl
@[simp] theorem setMdr_lines (s : State) (d : Byte) : (setMdr s d).lines = s.lines := rfl
@[simp] theorem setMdr_mem (s : State) (d : Byte) : (setMdr s d).mem = s.mem := rfl
@[simp] theorem setMdr_out (s : State) (d : Byte) : (setMdr s d).out = s.out := rfl
@[simp] theorem setMdr_params (s : State) (d : Byte) : (setMdr s d).params = s.params := rfl

/-! ## setFlags -/

@[simp] theorem setFlags_regs (s : State) (z c : Bool) : (setFlags s z c).regs = s.regs := rfl
@[simp] theorem setFlags_pc (s : State) (z c : Bool) : (setFlags s z c).pc = s.pc := rfl
@[simp] theorem setFlags_z (s : State) (z c : Bool) : (setFlags s z c).z = z := rfl
@[simp] theorem setFlags_c (s : State) (z c : Bool) : (setFlags s z c).c = c := rfl
@[simp] theorem setFlags_halted (s : State) (z c : Bool) : (setFlags s z c).halted = s.halted := rfl
@[simp] theorem setFlags_mar (s : State) (z c : Bool) : (setFlags s z c).mar = s.mar := rfl
@[simp] theorem setFlags_mdr (s : State) (z c : Bool) : (setFlags s z c).mdr = s.mdr := rfl
@[simp] theorem setFlags_fwdEn (s : State) (z c : Bool) : (setFlags s z c).fwdEn = s.fwdEn := rfl
@[simp] theorem setFlags_cacheEn (s : State) (z c : Bool) : (setFlags s z c).cacheEn = s.cacheEn := rfl
@[simp] theorem setFlags_cacheStallRemaining (s : State) (z c : Bool) :
    (setFlags s z c).cacheStallRemaining = s.cacheStallRemaining := rfl
@[simp] theorem setFlags_fault (s : State) (z c : Bool) : (setFlags s z c).fault = s.fault := rfl
@[simp] theorem setFlags_ctr (s : State) (z c : Bool) : (setFlags s z c).ctr = s.ctr := rfl
@[simp] theorem setFlags_pr (s : State) (z c : Bool) : (setFlags s z c).pr = s.pr := rfl
@[simp] theorem setFlags_lines (s : State) (z c : Bool) : (setFlags s z c).lines = s.lines := rfl
@[simp] theorem setFlags_mem (s : State) (z c : Bool) : (setFlags s z c).mem = s.mem := rfl
@[simp] theorem setFlags_out (s : State) (z c : Bool) : (setFlags s z c).out = s.out := rfl
@[simp] theorem setFlags_params (s : State) (z c : Bool) : (setFlags s z c).params = s.params := rfl

/-! ## setLine -/

@[simp] theorem setLine_regs (s : State) (i : BitVec 3) (l : CacheLine) : (setLine s i l).regs = s.regs := rfl
@[simp] theorem setLine_pc (s : State) (i : BitVec 3) (l : CacheLine) : (setLine s i l).pc = s.pc := rfl
@[simp] theorem setLine_z (s : State) (i : BitVec 3) (l : CacheLine) : (setLine s i l).z = s.z := rfl
@[simp] theorem setLine_c (s : State) (i : BitVec 3) (l : CacheLine) : (setLine s i l).c = s.c := rfl
@[simp] theorem setLine_halted (s : State) (i : BitVec 3) (l : CacheLine) : (setLine s i l).halted = s.halted := rfl
@[simp] theorem setLine_mar (s : State) (i : BitVec 3) (l : CacheLine) : (setLine s i l).mar = s.mar := rfl
@[simp] theorem setLine_mdr (s : State) (i : BitVec 3) (l : CacheLine) : (setLine s i l).mdr = s.mdr := rfl
@[simp] theorem setLine_fwdEn (s : State) (i : BitVec 3) (l : CacheLine) : (setLine s i l).fwdEn = s.fwdEn := rfl
@[simp] theorem setLine_cacheEn (s : State) (i : BitVec 3) (l : CacheLine) :
    (setLine s i l).cacheEn = s.cacheEn := rfl
@[simp] theorem setLine_cacheStallRemaining (s : State) (i : BitVec 3) (l : CacheLine) :
    (setLine s i l).cacheStallRemaining = s.cacheStallRemaining := rfl
@[simp] theorem setLine_fault (s : State) (i : BitVec 3) (l : CacheLine) : (setLine s i l).fault = s.fault := rfl
@[simp] theorem setLine_ctr (s : State) (i : BitVec 3) (l : CacheLine) : (setLine s i l).ctr = s.ctr := rfl
@[simp] theorem setLine_pr (s : State) (i : BitVec 3) (l : CacheLine) : (setLine s i l).pr = s.pr := rfl
@[simp] theorem setLine_lines (s : State) (i : BitVec 3) (l : CacheLine) :
    (setLine s i l).lines = s.lines.set i.toNat l (by have := i.isLt; omega) := rfl
@[simp] theorem setLine_mem (s : State) (i : BitVec 3) (l : CacheLine) : (setLine s i l).mem = s.mem := rfl
@[simp] theorem setLine_out (s : State) (i : BitVec 3) (l : CacheLine) : (setLine s i l).out = s.out := rfl
@[simp] theorem setLine_params (s : State) (i : BitVec 3) (l : CacheLine) : (setLine s i l).params = s.params := rfl

/-! ## fillLine -/

@[simp] theorem fillLine_regs (s : State) (a : Addr) (d : Byte) : (fillLine s a d).regs = s.regs := rfl
@[simp] theorem fillLine_pc (s : State) (a : Addr) (d : Byte) : (fillLine s a d).pc = s.pc := rfl
@[simp] theorem fillLine_z (s : State) (a : Addr) (d : Byte) : (fillLine s a d).z = s.z := rfl
@[simp] theorem fillLine_c (s : State) (a : Addr) (d : Byte) : (fillLine s a d).c = s.c := rfl
@[simp] theorem fillLine_halted (s : State) (a : Addr) (d : Byte) : (fillLine s a d).halted = s.halted := rfl
@[simp] theorem fillLine_mar (s : State) (a : Addr) (d : Byte) : (fillLine s a d).mar = s.mar := rfl
@[simp] theorem fillLine_mdr (s : State) (a : Addr) (d : Byte) : (fillLine s a d).mdr = s.mdr := rfl
@[simp] theorem fillLine_fwdEn (s : State) (a : Addr) (d : Byte) : (fillLine s a d).fwdEn = s.fwdEn := rfl
@[simp] theorem fillLine_cacheEn (s : State) (a : Addr) (d : Byte) : (fillLine s a d).cacheEn = s.cacheEn := rfl
@[simp] theorem fillLine_cacheStallRemaining (s : State) (a : Addr) (d : Byte) :
    (fillLine s a d).cacheStallRemaining = s.cacheStallRemaining := rfl
@[simp] theorem fillLine_fault (s : State) (a : Addr) (d : Byte) : (fillLine s a d).fault = s.fault := rfl
@[simp] theorem fillLine_ctr (s : State) (a : Addr) (d : Byte) : (fillLine s a d).ctr = s.ctr := rfl
@[simp] theorem fillLine_pr (s : State) (a : Addr) (d : Byte) : (fillLine s a d).pr = s.pr := rfl
@[simp] theorem fillLine_lines (s : State) (a : Addr) (d : Byte) :
    (fillLine s a d).lines = s.lines.set (cacheIndex a).toNat { valid := true, tag := cacheTag a, data := d }
      (by have := (cacheIndex a).isLt; omega) := rfl
@[simp] theorem fillLine_mem (s : State) (a : Addr) (d : Byte) : (fillLine s a d).mem = s.mem := rfl
@[simp] theorem fillLine_out (s : State) (a : Addr) (d : Byte) : (fillLine s a d).out = s.out := rfl
@[simp] theorem fillLine_params (s : State) (a : Addr) (d : Byte) : (fillLine s a d).params = s.params := rfl

/-! ## countHit -/

@[simp] theorem countHit_regs (s : State) : (countHit s).regs = s.regs := rfl
@[simp] theorem countHit_pc (s : State) : (countHit s).pc = s.pc := rfl
@[simp] theorem countHit_z (s : State) : (countHit s).z = s.z := rfl
@[simp] theorem countHit_c (s : State) : (countHit s).c = s.c := rfl
@[simp] theorem countHit_halted (s : State) : (countHit s).halted = s.halted := rfl
@[simp] theorem countHit_mar (s : State) : (countHit s).mar = s.mar := rfl
@[simp] theorem countHit_mdr (s : State) : (countHit s).mdr = s.mdr := rfl
@[simp] theorem countHit_fwdEn (s : State) : (countHit s).fwdEn = s.fwdEn := rfl
@[simp] theorem countHit_cacheEn (s : State) : (countHit s).cacheEn = s.cacheEn := rfl
@[simp] theorem countHit_cacheStallRemaining (s : State) :
    (countHit s).cacheStallRemaining = s.cacheStallRemaining := rfl
@[simp] theorem countHit_fault (s : State) : (countHit s).fault = s.fault := rfl
@[simp] theorem countHit_ctr (s : State) : (countHit s).ctr = { s.ctr with cacheHits := s.ctr.cacheHits + 1 } := rfl
@[simp] theorem countHit_pr (s : State) : (countHit s).pr = s.pr := rfl
@[simp] theorem countHit_lines (s : State) : (countHit s).lines = s.lines := rfl
@[simp] theorem countHit_mem (s : State) : (countHit s).mem = s.mem := rfl
@[simp] theorem countHit_out (s : State) : (countHit s).out = s.out := rfl
@[simp] theorem countHit_params (s : State) : (countHit s).params = s.params := rfl

/-! ## countMiss -/

@[simp] theorem countMiss_regs (s : State) : (countMiss s).regs = s.regs := rfl
@[simp] theorem countMiss_pc (s : State) : (countMiss s).pc = s.pc := rfl
@[simp] theorem countMiss_z (s : State) : (countMiss s).z = s.z := rfl
@[simp] theorem countMiss_c (s : State) : (countMiss s).c = s.c := rfl
@[simp] theorem countMiss_halted (s : State) : (countMiss s).halted = s.halted := rfl
@[simp] theorem countMiss_mar (s : State) : (countMiss s).mar = s.mar := rfl
@[simp] theorem countMiss_mdr (s : State) : (countMiss s).mdr = s.mdr := rfl
@[simp] theorem countMiss_fwdEn (s : State) : (countMiss s).fwdEn = s.fwdEn := rfl
@[simp] theorem countMiss_cacheEn (s : State) : (countMiss s).cacheEn = s.cacheEn := rfl
@[simp] theorem countMiss_cacheStallRemaining (s : State) :
    (countMiss s).cacheStallRemaining = s.cacheStallRemaining := rfl
@[simp] theorem countMiss_fault (s : State) : (countMiss s).fault = s.fault := rfl
@[simp] theorem countMiss_ctr (s : State) :
    (countMiss s).ctr = { s.ctr with
      cacheMisses := s.ctr.cacheMisses + 1, cacheStallCycles := s.ctr.cacheStallCycles + missStall.toNat } := rfl
@[simp] theorem countMiss_pr (s : State) : (countMiss s).pr = s.pr := rfl
@[simp] theorem countMiss_lines (s : State) : (countMiss s).lines = s.lines := rfl
@[simp] theorem countMiss_mem (s : State) : (countMiss s).mem = s.mem := rfl
@[simp] theorem countMiss_out (s : State) : (countMiss s).out = s.out := rfl
@[simp] theorem countMiss_params (s : State) : (countMiss s).params = s.params := rfl

/-! ## storeByte -/

@[simp] theorem storeByte_regs (s : State) (a : Addr) (v : Byte) : (storeByte s a v).regs = s.regs := rfl
@[simp] theorem storeByte_pc (s : State) (a : Addr) (v : Byte) : (storeByte s a v).pc = s.pc := rfl
@[simp] theorem storeByte_z (s : State) (a : Addr) (v : Byte) : (storeByte s a v).z = s.z := rfl
@[simp] theorem storeByte_c (s : State) (a : Addr) (v : Byte) : (storeByte s a v).c = s.c := rfl
@[simp] theorem storeByte_halted (s : State) (a : Addr) (v : Byte) : (storeByte s a v).halted = s.halted := rfl
@[simp] theorem storeByte_mar (s : State) (a : Addr) (v : Byte) : (storeByte s a v).mar = s.mar := rfl
@[simp] theorem storeByte_mdr (s : State) (a : Addr) (v : Byte) : (storeByte s a v).mdr = s.mdr := rfl
@[simp] theorem storeByte_fwdEn (s : State) (a : Addr) (v : Byte) : (storeByte s a v).fwdEn = s.fwdEn := rfl
@[simp] theorem storeByte_cacheEn (s : State) (a : Addr) (v : Byte) : (storeByte s a v).cacheEn = s.cacheEn := rfl
@[simp] theorem storeByte_cacheStallRemaining (s : State) (a : Addr) (v : Byte) :
    (storeByte s a v).cacheStallRemaining = s.cacheStallRemaining := rfl
@[simp] theorem storeByte_fault (s : State) (a : Addr) (v : Byte) : (storeByte s a v).fault = s.fault := rfl
@[simp] theorem storeByte_ctr (s : State) (a : Addr) (v : Byte) : (storeByte s a v).ctr = s.ctr := rfl
@[simp] theorem storeByte_pr (s : State) (a : Addr) (v : Byte) : (storeByte s a v).pr = s.pr := rfl
@[simp] theorem storeByte_lines (s : State) (a : Addr) (v : Byte) : (storeByte s a v).lines = s.lines := rfl
@[simp] theorem storeByte_mem (s : State) (a : Addr) (v : Byte) : (storeByte s a v).mem = memWrite s.mem a v := rfl
@[simp] theorem storeByte_out (s : State) (a : Addr) (v : Byte) : (storeByte s a v).out = s.out := rfl
@[simp] theorem storeByte_params (s : State) (a : Addr) (v : Byte) : (storeByte s a v).params = s.params := rfl

/-! ## markResult -/

@[simp] theorem markResult_regs (s : State) (v : Byte) : (markResult s v).regs = s.regs := rfl
@[simp] theorem markResult_pc (s : State) (v : Byte) : (markResult s v).pc = s.pc := rfl
@[simp] theorem markResult_z (s : State) (v : Byte) : (markResult s v).z = s.z := rfl
@[simp] theorem markResult_c (s : State) (v : Byte) : (markResult s v).c = s.c := rfl
@[simp] theorem markResult_halted (s : State) (v : Byte) : (markResult s v).halted = s.halted := rfl
@[simp] theorem markResult_mar (s : State) (v : Byte) : (markResult s v).mar = s.mar := rfl
@[simp] theorem markResult_mdr (s : State) (v : Byte) : (markResult s v).mdr = s.mdr := rfl
@[simp] theorem markResult_fwdEn (s : State) (v : Byte) : (markResult s v).fwdEn = s.fwdEn := rfl
@[simp] theorem markResult_cacheEn (s : State) (v : Byte) : (markResult s v).cacheEn = s.cacheEn := rfl
@[simp] theorem markResult_cacheStallRemaining (s : State) (v : Byte) :
    (markResult s v).cacheStallRemaining = s.cacheStallRemaining := rfl
@[simp] theorem markResult_fault (s : State) (v : Byte) : (markResult s v).fault = s.fault := rfl
@[simp] theorem markResult_ctr (s : State) (v : Byte) : (markResult s v).ctr = s.ctr := rfl
@[simp] theorem markResult_pr (s : State) (v : Byte) :
    (markResult s v).pr = { s.pr with producesResult := true, resultValue := v, resultReady := true } := rfl
@[simp] theorem markResult_lines (s : State) (v : Byte) : (markResult s v).lines = s.lines := rfl
@[simp] theorem markResult_mem (s : State) (v : Byte) : (markResult s v).mem = s.mem := rfl
@[simp] theorem markResult_out (s : State) (v : Byte) : (markResult s v).out = s.out := rfl
@[simp] theorem markResult_params (s : State) (v : Byte) : (markResult s v).params = s.params := rfl

/-! ## returnStall -/

@[simp] theorem returnStall_regs (s : State) (n : BitVec 3) : (returnStall s n).regs = s.regs := rfl
@[simp] theorem returnStall_pc (s : State) (n : BitVec 3) : (returnStall s n).pc = s.pc := rfl
@[simp] theorem returnStall_z (s : State) (n : BitVec 3) : (returnStall s n).z = s.z := rfl
@[simp] theorem returnStall_c (s : State) (n : BitVec 3) : (returnStall s n).c = s.c := rfl
@[simp] theorem returnStall_halted (s : State) (n : BitVec 3) : (returnStall s n).halted = s.halted := rfl
@[simp] theorem returnStall_mar (s : State) (n : BitVec 3) : (returnStall s n).mar = s.mar := rfl
@[simp] theorem returnStall_mdr (s : State) (n : BitVec 3) : (returnStall s n).mdr = s.mdr := rfl
@[simp] theorem returnStall_fwdEn (s : State) (n : BitVec 3) : (returnStall s n).fwdEn = s.fwdEn := rfl
@[simp] theorem returnStall_cacheEn (s : State) (n : BitVec 3) : (returnStall s n).cacheEn = s.cacheEn := rfl
@[simp] theorem returnStall_cacheStallRemaining (s : State) (n : BitVec 3) :
    (returnStall s n).cacheStallRemaining = s.cacheStallRemaining := rfl
@[simp] theorem returnStall_fault (s : State) (n : BitVec 3) : (returnStall s n).fault = s.fault := rfl
@[simp] theorem returnStall_ctr (s : State) (n : BitVec 3) : (returnStall s n).ctr = s.ctr := rfl
@[simp] theorem returnStall_pr (s : State) (n : BitVec 3) : (returnStall s n).pr = s.pr := rfl
@[simp] theorem returnStall_lines (s : State) (n : BitVec 3) : (returnStall s n).lines = s.lines := rfl
@[simp] theorem returnStall_mem (s : State) (n : BitVec 3) : (returnStall s n).mem = s.mem := rfl
@[simp] theorem returnStall_out (s : State) (n : BitVec 3) : (returnStall s n).out = { s.out with stall := n } := rfl
@[simp] theorem returnStall_params (s : State) (n : BitVec 3) : (returnStall s n).params = s.params := rfl

/-! ## writeResult -/

@[simp] theorem writeResult_regs (s : State) (r : Sel) (v : Byte) :
    (writeResult s r v).regs = if r = 0#4 then s.regs else s.regs.set r.toNat v (by have := r.isLt; omega) := rfl
@[simp] theorem writeResult_pc (s : State) (r : Sel) (v : Byte) : (writeResult s r v).pc = s.pc := rfl
@[simp] theorem writeResult_z (s : State) (r : Sel) (v : Byte) : (writeResult s r v).z = s.z := rfl
@[simp] theorem writeResult_c (s : State) (r : Sel) (v : Byte) : (writeResult s r v).c = s.c := rfl
@[simp] theorem writeResult_halted (s : State) (r : Sel) (v : Byte) : (writeResult s r v).halted = s.halted := rfl
@[simp] theorem writeResult_mar (s : State) (r : Sel) (v : Byte) : (writeResult s r v).mar = s.mar := rfl
@[simp] theorem writeResult_mdr (s : State) (r : Sel) (v : Byte) : (writeResult s r v).mdr = s.mdr := rfl
@[simp] theorem writeResult_fwdEn (s : State) (r : Sel) (v : Byte) : (writeResult s r v).fwdEn = s.fwdEn := rfl
@[simp] theorem writeResult_cacheEn (s : State) (r : Sel) (v : Byte) : (writeResult s r v).cacheEn = s.cacheEn := rfl
@[simp] theorem writeResult_cacheStallRemaining (s : State) (r : Sel) (v : Byte) :
    (writeResult s r v).cacheStallRemaining = s.cacheStallRemaining := rfl
@[simp] theorem writeResult_fault (s : State) (r : Sel) (v : Byte) : (writeResult s r v).fault = s.fault := rfl
@[simp] theorem writeResult_ctr (s : State) (r : Sel) (v : Byte) : (writeResult s r v).ctr = s.ctr := rfl
@[simp] theorem writeResult_pr (s : State) (r : Sel) (v : Byte) :
    (writeResult s r v).pr = { s.pr with producesResult := true, resultValue := v, resultReady := true } := rfl
@[simp] theorem writeResult_lines (s : State) (r : Sel) (v : Byte) : (writeResult s r v).lines = s.lines := rfl
@[simp] theorem writeResult_mem (s : State) (r : Sel) (v : Byte) : (writeResult s r v).mem = s.mem := rfl
@[simp] theorem writeResult_out (s : State) (r : Sel) (v : Byte) :
    (writeResult s r v).out = { s.out with r0WriteIgnored := s.out.r0WriteIgnored || r == 0#4, stall := 0#3 } := rfl
@[simp] theorem writeResult_params (s : State) (r : Sel) (v : Byte) : (writeResult s r v).params = s.params := rfl

/-! ## finishLoad -/

@[simp] theorem finishLoad_regs (r : Sel) (acc : Access) :
    (finishLoad r acc).regs = if r = 0#4 then acc.state.regs else
      acc.state.regs.set r.toNat acc.data (by have := r.isLt; omega) := rfl
@[simp] theorem finishLoad_pc (r : Sel) (acc : Access) : (finishLoad r acc).pc = acc.state.pc := rfl
@[simp] theorem finishLoad_z (r : Sel) (acc : Access) : (finishLoad r acc).z = acc.state.z := rfl
@[simp] theorem finishLoad_c (r : Sel) (acc : Access) : (finishLoad r acc).c = acc.state.c := rfl
@[simp] theorem finishLoad_halted (r : Sel) (acc : Access) : (finishLoad r acc).halted = acc.state.halted := rfl
@[simp] theorem finishLoad_mar (r : Sel) (acc : Access) : (finishLoad r acc).mar = acc.state.mar := rfl
@[simp] theorem finishLoad_mdr (r : Sel) (acc : Access) : (finishLoad r acc).mdr = acc.data := rfl
@[simp] theorem finishLoad_fwdEn (r : Sel) (acc : Access) : (finishLoad r acc).fwdEn = acc.state.fwdEn := rfl
@[simp] theorem finishLoad_cacheEn (r : Sel) (acc : Access) : (finishLoad r acc).cacheEn = acc.state.cacheEn := rfl
@[simp] theorem finishLoad_cacheStallRemaining (r : Sel) (acc : Access) :
    (finishLoad r acc).cacheStallRemaining = acc.state.cacheStallRemaining := rfl
@[simp] theorem finishLoad_fault (r : Sel) (acc : Access) : (finishLoad r acc).fault = acc.state.fault := rfl
@[simp] theorem finishLoad_ctr (r : Sel) (acc : Access) : (finishLoad r acc).ctr = acc.state.ctr := rfl
@[simp] theorem finishLoad_pr (r : Sel) (acc : Access) :
    (finishLoad r acc).pr = { acc.state.pr with
      producesResult := true, resultValue := acc.data, resultReady := true } := rfl
@[simp] theorem finishLoad_lines (r : Sel) (acc : Access) : (finishLoad r acc).lines = acc.state.lines := rfl
@[simp] theorem finishLoad_mem (r : Sel) (acc : Access) : (finishLoad r acc).mem = acc.state.mem := rfl
@[simp] theorem finishLoad_out (r : Sel) (acc : Access) :
    (finishLoad r acc).out = { acc.state.out with
      r0WriteIgnored := acc.state.out.r0WriteIgnored || r == 0#4, stall := acc.stall } := rfl
@[simp] theorem finishLoad_params (r : Sel) (acc : Access) : (finishLoad r acc).params = acc.state.params := rfl

/-! ## jumpTo -/

@[simp] theorem jumpTo_regs (s : State) (target : Addr) : (jumpTo s target).regs = s.regs := rfl
@[simp] theorem jumpTo_pc (s : State) (target : Addr) : (jumpTo s target).pc = target.setWidth 9 := rfl
@[simp] theorem jumpTo_z (s : State) (target : Addr) : (jumpTo s target).z = s.z := rfl
@[simp] theorem jumpTo_c (s : State) (target : Addr) : (jumpTo s target).c = s.c := rfl
@[simp] theorem jumpTo_halted (s : State) (target : Addr) : (jumpTo s target).halted = s.halted := rfl
@[simp] theorem jumpTo_mar (s : State) (target : Addr) : (jumpTo s target).mar = s.mar := rfl
@[simp] theorem jumpTo_mdr (s : State) (target : Addr) : (jumpTo s target).mdr = s.mdr := rfl
@[simp] theorem jumpTo_fwdEn (s : State) (target : Addr) : (jumpTo s target).fwdEn = s.fwdEn := rfl
@[simp] theorem jumpTo_cacheEn (s : State) (target : Addr) : (jumpTo s target).cacheEn = s.cacheEn := rfl
@[simp] theorem jumpTo_cacheStallRemaining (s : State) (target : Addr) :
    (jumpTo s target).cacheStallRemaining = s.cacheStallRemaining := rfl
@[simp] theorem jumpTo_fault (s : State) (target : Addr) : (jumpTo s target).fault = s.fault := rfl
@[simp] theorem jumpTo_ctr (s : State) (target : Addr) :
    (jumpTo s target).ctr = { s.ctr with flushes := s.ctr.flushes + 1 } := rfl
@[simp] theorem jumpTo_pr (s : State) (target : Addr) : (jumpTo s target).pr = { s.pr with valid := false } := rfl
@[simp] theorem jumpTo_lines (s : State) (target : Addr) : (jumpTo s target).lines = s.lines := rfl
@[simp] theorem jumpTo_mem (s : State) (target : Addr) : (jumpTo s target).mem = s.mem := rfl
@[simp] theorem jumpTo_out (s : State) (target : Addr) : (jumpTo s target).out = { s.out with flushed := true } := rfl
@[simp] theorem jumpTo_params (s : State) (target : Addr) : (jumpTo s target).params = s.params := rfl

/-! ## setHalted -/

@[simp] theorem setHalted_regs (s : State) : (setHalted s).regs = s.regs := rfl
@[simp] theorem setHalted_pc (s : State) : (setHalted s).pc = s.pc := rfl
@[simp] theorem setHalted_z (s : State) : (setHalted s).z = s.z := rfl
@[simp] theorem setHalted_c (s : State) : (setHalted s).c = s.c := rfl
@[simp] theorem setHalted_halted (s : State) : (setHalted s).halted = true := rfl
@[simp] theorem setHalted_mar (s : State) : (setHalted s).mar = s.mar := rfl
@[simp] theorem setHalted_mdr (s : State) : (setHalted s).mdr = s.mdr := rfl
@[simp] theorem setHalted_fwdEn (s : State) : (setHalted s).fwdEn = s.fwdEn := rfl
@[simp] theorem setHalted_cacheEn (s : State) : (setHalted s).cacheEn = s.cacheEn := rfl
@[simp] theorem setHalted_cacheStallRemaining (s : State) :
    (setHalted s).cacheStallRemaining = s.cacheStallRemaining := rfl
@[simp] theorem setHalted_fault (s : State) : (setHalted s).fault = s.fault := rfl
@[simp] theorem setHalted_ctr (s : State) : (setHalted s).ctr = s.ctr := rfl
@[simp] theorem setHalted_pr (s : State) : (setHalted s).pr = s.pr := rfl
@[simp] theorem setHalted_lines (s : State) : (setHalted s).lines = s.lines := rfl
@[simp] theorem setHalted_mem (s : State) : (setHalted s).mem = s.mem := rfl
@[simp] theorem setHalted_out (s : State) : (setHalted s).out = s.out := rfl
@[simp] theorem setHalted_params (s : State) : (setHalted s).params = s.params := rfl

/-! ## raise -/

@[simp] theorem raise_regs (e : Fault) (s : State) : (raise e s).regs = s.regs := rfl
@[simp] theorem raise_pc (e : Fault) (s : State) : (raise e s).pc = s.pc := rfl
@[simp] theorem raise_z (e : Fault) (s : State) : (raise e s).z = s.z := rfl
@[simp] theorem raise_c (e : Fault) (s : State) : (raise e s).c = s.c := rfl
@[simp] theorem raise_halted (e : Fault) (s : State) : (raise e s).halted = s.halted := rfl
@[simp] theorem raise_mar (e : Fault) (s : State) : (raise e s).mar = s.mar := rfl
@[simp] theorem raise_mdr (e : Fault) (s : State) : (raise e s).mdr = s.mdr := rfl
@[simp] theorem raise_fwdEn (e : Fault) (s : State) : (raise e s).fwdEn = s.fwdEn := rfl
@[simp] theorem raise_cacheEn (e : Fault) (s : State) : (raise e s).cacheEn = s.cacheEn := rfl
@[simp] theorem raise_cacheStallRemaining (e : Fault) (s : State) :
    (raise e s).cacheStallRemaining = s.cacheStallRemaining := rfl
@[simp] theorem raise_fault (e : Fault) (s : State) : (raise e s).fault = some e := rfl
@[simp] theorem raise_ctr (e : Fault) (s : State) : (raise e s).ctr = s.ctr := rfl
@[simp] theorem raise_pr (e : Fault) (s : State) : (raise e s).pr = s.pr := rfl
@[simp] theorem raise_lines (e : Fault) (s : State) : (raise e s).lines = s.lines := rfl
@[simp] theorem raise_mem (e : Fault) (s : State) : (raise e s).mem = s.mem := rfl
@[simp] theorem raise_out (e : Fault) (s : State) : (raise e s).out = s.out := rfl
@[simp] theorem raise_params (e : Fault) (s : State) : (raise e s).params = s.params := rfl

/-! ## beginCycle -/

@[simp] theorem beginCycle_regs (s : State) : (beginCycle s).regs = s.regs := rfl
@[simp] theorem beginCycle_pc (s : State) : (beginCycle s).pc = s.pc := rfl
@[simp] theorem beginCycle_z (s : State) : (beginCycle s).z = s.z := rfl
@[simp] theorem beginCycle_c (s : State) : (beginCycle s).c = s.c := rfl
@[simp] theorem beginCycle_halted (s : State) : (beginCycle s).halted = s.halted := rfl
@[simp] theorem beginCycle_mar (s : State) : (beginCycle s).mar = s.mar := rfl
@[simp] theorem beginCycle_mdr (s : State) : (beginCycle s).mdr = s.mdr := rfl
@[simp] theorem beginCycle_fwdEn (s : State) : (beginCycle s).fwdEn = s.fwdEn := rfl
@[simp] theorem beginCycle_cacheEn (s : State) : (beginCycle s).cacheEn = s.cacheEn := rfl
@[simp] theorem beginCycle_cacheStallRemaining (s : State) :
    (beginCycle s).cacheStallRemaining = s.cacheStallRemaining := rfl
@[simp] theorem beginCycle_fault (s : State) : (beginCycle s).fault = s.fault := rfl
@[simp] theorem beginCycle_ctr (s : State) : (beginCycle s).ctr = { s.ctr with cycles := s.ctr.cycles + 1 } := rfl
@[simp] theorem beginCycle_pr (s : State) : (beginCycle s).pr = s.pr := rfl
@[simp] theorem beginCycle_lines (s : State) : (beginCycle s).lines = s.lines := rfl
@[simp] theorem beginCycle_mem (s : State) : (beginCycle s).mem = s.mem := rfl
@[simp] theorem beginCycle_out (s : State) : (beginCycle s).out = CycleOut.clear := rfl
@[simp] theorem beginCycle_params (s : State) : (beginCycle s).params = s.params := rfl

/-! ## gateCycle -/

@[simp] theorem gateCycle_regs (s : State) : (gateCycle s).regs = s.regs := rfl
@[simp] theorem gateCycle_pc (s : State) : (gateCycle s).pc = s.pc := rfl
@[simp] theorem gateCycle_z (s : State) : (gateCycle s).z = s.z := rfl
@[simp] theorem gateCycle_c (s : State) : (gateCycle s).c = s.c := rfl
@[simp] theorem gateCycle_halted (s : State) : (gateCycle s).halted = s.halted := rfl
@[simp] theorem gateCycle_mar (s : State) : (gateCycle s).mar = s.mar := rfl
@[simp] theorem gateCycle_mdr (s : State) : (gateCycle s).mdr = s.mdr := rfl
@[simp] theorem gateCycle_fwdEn (s : State) : (gateCycle s).fwdEn = s.fwdEn := rfl
@[simp] theorem gateCycle_cacheEn (s : State) : (gateCycle s).cacheEn = s.cacheEn := rfl
@[simp] theorem gateCycle_cacheStallRemaining (s : State) :
    (gateCycle s).cacheStallRemaining = s.cacheStallRemaining - 1#3 := rfl
@[simp] theorem gateCycle_fault (s : State) : (gateCycle s).fault = s.fault := rfl
@[simp] theorem gateCycle_ctr (s : State) : (gateCycle s).ctr = s.ctr := rfl
@[simp] theorem gateCycle_pr (s : State) : (gateCycle s).pr = s.pr := rfl
@[simp] theorem gateCycle_lines (s : State) : (gateCycle s).lines = s.lines := rfl
@[simp] theorem gateCycle_mem (s : State) : (gateCycle s).mem = s.mem := rfl
@[simp] theorem gateCycle_out (s : State) : (gateCycle s).out = s.out := rfl
@[simp] theorem gateCycle_params (s : State) : (gateCycle s).params = s.params := rfl

/-! ## clearReady -/

@[simp] theorem clearReady_regs (s : State) : (clearReady s).regs = s.regs := rfl
@[simp] theorem clearReady_pc (s : State) : (clearReady s).pc = s.pc := rfl
@[simp] theorem clearReady_z (s : State) : (clearReady s).z = s.z := rfl
@[simp] theorem clearReady_c (s : State) : (clearReady s).c = s.c := rfl
@[simp] theorem clearReady_halted (s : State) : (clearReady s).halted = s.halted := rfl
@[simp] theorem clearReady_mar (s : State) : (clearReady s).mar = s.mar := rfl
@[simp] theorem clearReady_mdr (s : State) : (clearReady s).mdr = s.mdr := rfl
@[simp] theorem clearReady_fwdEn (s : State) : (clearReady s).fwdEn = s.fwdEn := rfl
@[simp] theorem clearReady_cacheEn (s : State) : (clearReady s).cacheEn = s.cacheEn := rfl
@[simp] theorem clearReady_cacheStallRemaining (s : State) :
    (clearReady s).cacheStallRemaining = s.cacheStallRemaining := rfl
@[simp] theorem clearReady_fault (s : State) : (clearReady s).fault = s.fault := rfl
@[simp] theorem clearReady_ctr (s : State) : (clearReady s).ctr = s.ctr := rfl
@[simp] theorem clearReady_pr (s : State) :
    (clearReady s).pr = { s.pr with producesResult := false, resultReady := false } := rfl
@[simp] theorem clearReady_lines (s : State) : (clearReady s).lines = s.lines := rfl
@[simp] theorem clearReady_mem (s : State) : (clearReady s).mem = s.mem := rfl
@[simp] theorem clearReady_out (s : State) : (clearReady s).out = s.out := rfl
@[simp] theorem clearReady_params (s : State) : (clearReady s).params = s.params := rfl

/-! ## retire -/

@[simp] theorem retire_regs (s : State) : (retire s).regs = s.regs := rfl
@[simp] theorem retire_pc (s : State) : (retire s).pc = s.pc := rfl
@[simp] theorem retire_z (s : State) : (retire s).z = s.z := rfl
@[simp] theorem retire_c (s : State) : (retire s).c = s.c := rfl
@[simp] theorem retire_halted (s : State) : (retire s).halted = s.halted := rfl
@[simp] theorem retire_mar (s : State) : (retire s).mar = s.mar := rfl
@[simp] theorem retire_mdr (s : State) : (retire s).mdr = s.mdr := rfl
@[simp] theorem retire_fwdEn (s : State) : (retire s).fwdEn = s.fwdEn := rfl
@[simp] theorem retire_cacheEn (s : State) : (retire s).cacheEn = s.cacheEn := rfl
@[simp] theorem retire_cacheStallRemaining (s : State) : (retire s).cacheStallRemaining = s.cacheStallRemaining := rfl
@[simp] theorem retire_fault (s : State) : (retire s).fault = s.fault := rfl
@[simp] theorem retire_ctr (s : State) : (retire s).ctr = { s.ctr with instructions := s.ctr.instructions + 1 } := rfl
@[simp] theorem retire_pr (s : State) : (retire s).pr = { s.pr with executed := true } := rfl
@[simp] theorem retire_lines (s : State) : (retire s).lines = s.lines := rfl
@[simp] theorem retire_mem (s : State) : (retire s).mem = s.mem := rfl
@[simp] theorem retire_out (s : State) : (retire s).out = s.out := rfl
@[simp] theorem retire_params (s : State) : (retire s).params = s.params := rfl

/-! ## recordStall -/

@[simp] theorem recordStall_regs (s : State) : (recordStall s).regs = s.regs := rfl
@[simp] theorem recordStall_pc (s : State) : (recordStall s).pc = s.pc := rfl
@[simp] theorem recordStall_z (s : State) : (recordStall s).z = s.z := rfl
@[simp] theorem recordStall_c (s : State) : (recordStall s).c = s.c := rfl
@[simp] theorem recordStall_halted (s : State) : (recordStall s).halted = s.halted := rfl
@[simp] theorem recordStall_mar (s : State) : (recordStall s).mar = s.mar := rfl
@[simp] theorem recordStall_mdr (s : State) : (recordStall s).mdr = s.mdr := rfl
@[simp] theorem recordStall_fwdEn (s : State) : (recordStall s).fwdEn = s.fwdEn := rfl
@[simp] theorem recordStall_cacheEn (s : State) : (recordStall s).cacheEn = s.cacheEn := rfl
@[simp] theorem recordStall_cacheStallRemaining (s : State) : (recordStall s).cacheStallRemaining = s.out.stall := rfl
@[simp] theorem recordStall_fault (s : State) : (recordStall s).fault = s.fault := rfl
@[simp] theorem recordStall_ctr (s : State) : (recordStall s).ctr = s.ctr := rfl
@[simp] theorem recordStall_pr (s : State) : (recordStall s).pr = s.pr := rfl
@[simp] theorem recordStall_lines (s : State) : (recordStall s).lines = s.lines := rfl
@[simp] theorem recordStall_mem (s : State) : (recordStall s).mem = s.mem := rfl
@[simp] theorem recordStall_out (s : State) : (recordStall s).out = s.out := rfl
@[simp] theorem recordStall_params (s : State) : (recordStall s).params = s.params := rfl

/-! ## drain -/

@[simp] theorem drain_regs (s : State) : (drain s).regs = s.regs := rfl
@[simp] theorem drain_pc (s : State) : (drain s).pc = s.pc := rfl
@[simp] theorem drain_z (s : State) : (drain s).z = s.z := rfl
@[simp] theorem drain_c (s : State) : (drain s).c = s.c := rfl
@[simp] theorem drain_halted (s : State) : (drain s).halted = s.halted := rfl
@[simp] theorem drain_mar (s : State) : (drain s).mar = s.mar := rfl
@[simp] theorem drain_mdr (s : State) : (drain s).mdr = s.mdr := rfl
@[simp] theorem drain_fwdEn (s : State) : (drain s).fwdEn = s.fwdEn := rfl
@[simp] theorem drain_cacheEn (s : State) : (drain s).cacheEn = s.cacheEn := rfl
@[simp] theorem drain_cacheStallRemaining (s : State) : (drain s).cacheStallRemaining = s.cacheStallRemaining := rfl
@[simp] theorem drain_fault (s : State) : (drain s).fault = s.fault := rfl
@[simp] theorem drain_ctr (s : State) : (drain s).ctr = s.ctr := rfl
@[simp] theorem drain_pr (s : State) : (drain s).pr = PipeReg.empty := rfl
@[simp] theorem drain_lines (s : State) : (drain s).lines = s.lines := rfl
@[simp] theorem drain_mem (s : State) : (drain s).mem = s.mem := rfl
@[simp] theorem drain_out (s : State) : (drain s).out = s.out := rfl
@[simp] theorem drain_params (s : State) : (drain s).params = s.params := rfl

/-! ## recordForward -/

@[simp] theorem recordForward_regs (s : State) (v : Byte) : (recordForward s v).regs = s.regs := rfl
@[simp] theorem recordForward_pc (s : State) (v : Byte) : (recordForward s v).pc = s.pc := rfl
@[simp] theorem recordForward_z (s : State) (v : Byte) : (recordForward s v).z = s.z := rfl
@[simp] theorem recordForward_c (s : State) (v : Byte) : (recordForward s v).c = s.c := rfl
@[simp] theorem recordForward_halted (s : State) (v : Byte) : (recordForward s v).halted = s.halted := rfl
@[simp] theorem recordForward_mar (s : State) (v : Byte) : (recordForward s v).mar = s.mar := rfl
@[simp] theorem recordForward_mdr (s : State) (v : Byte) : (recordForward s v).mdr = s.mdr := rfl
@[simp] theorem recordForward_fwdEn (s : State) (v : Byte) : (recordForward s v).fwdEn = s.fwdEn := rfl
@[simp] theorem recordForward_cacheEn (s : State) (v : Byte) : (recordForward s v).cacheEn = s.cacheEn := rfl
@[simp] theorem recordForward_cacheStallRemaining (s : State) (v : Byte) :
    (recordForward s v).cacheStallRemaining = s.cacheStallRemaining := rfl
@[simp] theorem recordForward_fault (s : State) (v : Byte) : (recordForward s v).fault = s.fault := rfl
@[simp] theorem recordForward_ctr (s : State) (v : Byte) :
    (recordForward s v).ctr = { s.ctr with forwards := s.ctr.forwards + 1 } := rfl
@[simp] theorem recordForward_pr (s : State) (v : Byte) : (recordForward s v).pr = s.pr := rfl
@[simp] theorem recordForward_lines (s : State) (v : Byte) : (recordForward s v).lines = s.lines := rfl
@[simp] theorem recordForward_mem (s : State) (v : Byte) : (recordForward s v).mem = s.mem := rfl
@[simp] theorem recordForward_out (s : State) (v : Byte) :
    (recordForward s v).out = { s.out with fwdActive := true, fwdReg := s.pr.destReg, fwdValue := v } := rfl
@[simp] theorem recordForward_params (s : State) (v : Byte) : (recordForward s v).params = s.params := rfl

/-! ## insertBubble -/

@[simp] theorem insertBubble_regs (s : State) : (insertBubble s).regs = s.regs := rfl
@[simp] theorem insertBubble_pc (s : State) : (insertBubble s).pc = s.pc := rfl
@[simp] theorem insertBubble_z (s : State) : (insertBubble s).z = s.z := rfl
@[simp] theorem insertBubble_c (s : State) : (insertBubble s).c = s.c := rfl
@[simp] theorem insertBubble_halted (s : State) : (insertBubble s).halted = s.halted := rfl
@[simp] theorem insertBubble_mar (s : State) : (insertBubble s).mar = s.mar := rfl
@[simp] theorem insertBubble_mdr (s : State) : (insertBubble s).mdr = s.mdr := rfl
@[simp] theorem insertBubble_fwdEn (s : State) : (insertBubble s).fwdEn = s.fwdEn := rfl
@[simp] theorem insertBubble_cacheEn (s : State) : (insertBubble s).cacheEn = s.cacheEn := rfl
@[simp] theorem insertBubble_cacheStallRemaining (s : State) :
    (insertBubble s).cacheStallRemaining = s.cacheStallRemaining := rfl
@[simp] theorem insertBubble_fault (s : State) : (insertBubble s).fault = s.fault := rfl
@[simp] theorem insertBubble_ctr (s : State) :
    (insertBubble s).ctr = { s.ctr with hazardStalls := s.ctr.hazardStalls + 1 } := rfl
@[simp] theorem insertBubble_pr (s : State) : (insertBubble s).pr = PipeReg.bubbled := rfl
@[simp] theorem insertBubble_lines (s : State) : (insertBubble s).lines = s.lines := rfl
@[simp] theorem insertBubble_mem (s : State) : (insertBubble s).mem = s.mem := rfl
@[simp] theorem insertBubble_out (s : State) : (insertBubble s).out = { s.out with stalled := true } := rfl
@[simp] theorem insertBubble_params (s : State) : (insertBubble s).params = s.params := rfl

/-! ## latchNext -/

@[simp] theorem latchNext_regs (s : State) (w : Word) : (latchNext s w).regs = s.regs := rfl
@[simp] theorem latchNext_pc (s : State) (w : Word) : (latchNext s w).pc = s.pc + 1#9 := rfl
@[simp] theorem latchNext_z (s : State) (w : Word) : (latchNext s w).z = s.z := rfl
@[simp] theorem latchNext_c (s : State) (w : Word) : (latchNext s w).c = s.c := rfl
@[simp] theorem latchNext_halted (s : State) (w : Word) : (latchNext s w).halted = s.halted := rfl
@[simp] theorem latchNext_mar (s : State) (w : Word) : (latchNext s w).mar = s.mar := rfl
@[simp] theorem latchNext_mdr (s : State) (w : Word) : (latchNext s w).mdr = s.mdr := rfl
@[simp] theorem latchNext_fwdEn (s : State) (w : Word) : (latchNext s w).fwdEn = s.fwdEn := rfl
@[simp] theorem latchNext_cacheEn (s : State) (w : Word) : (latchNext s w).cacheEn = s.cacheEn := rfl
@[simp] theorem latchNext_cacheStallRemaining (s : State) (w : Word) :
    (latchNext s w).cacheStallRemaining = s.cacheStallRemaining := rfl
@[simp] theorem latchNext_fault (s : State) (w : Word) : (latchNext s w).fault = s.fault := rfl
@[simp] theorem latchNext_ctr (s : State) (w : Word) : (latchNext s w).ctr = s.ctr := rfl
@[simp] theorem latchNext_pr (s : State) (w : Word) : (latchNext s w).pr = latch w (s.pc.setWidth 8) := rfl
@[simp] theorem latchNext_lines (s : State) (w : Word) : (latchNext s w).lines = s.lines := rfl
@[simp] theorem latchNext_mem (s : State) (w : Word) : (latchNext s w).mem = s.mem := rfl
@[simp] theorem latchNext_out (s : State) (w : Word) : (latchNext s w).out = s.out := rfl
@[simp] theorem latchNext_params (s : State) (w : Word) : (latchNext s w).params = s.params := rfl

/-! ## The fixed values -/

@[simp] theorem clear_stalled : CycleOut.clear.stalled = false := rfl
@[simp] theorem clear_flushed : CycleOut.clear.flushed = false := rfl
@[simp] theorem clear_fwdActive : CycleOut.clear.fwdActive = false := rfl
@[simp] theorem clear_fwdReg : CycleOut.clear.fwdReg = 0#4 := rfl
@[simp] theorem clear_fwdValue : CycleOut.clear.fwdValue = 0#8 := rfl
@[simp] theorem clear_r0WriteIgnored : CycleOut.clear.r0WriteIgnored = false := rfl
@[simp] theorem clear_stall : CycleOut.clear.stall = 0#3 := rfl
@[simp] theorem empty_valid : PipeReg.empty.valid = false := rfl
@[simp] theorem empty_bubble : PipeReg.empty.bubble = false := rfl
@[simp] theorem empty_opcode : PipeReg.empty.opcode = 0#4 := rfl
@[simp] theorem empty_operand : PipeReg.empty.operand = 0#4 := rfl
@[simp] theorem empty_imm : PipeReg.empty.imm = 0#8 := rfl
@[simp] theorem empty_pc : PipeReg.empty.pc = 0#8 := rfl
@[simp] theorem empty_isLoad : PipeReg.empty.isLoad = false := rfl
@[simp] theorem empty_destReg : PipeReg.empty.destReg = 0#4 := rfl
@[simp] theorem empty_producesResult : PipeReg.empty.producesResult = false := rfl
@[simp] theorem empty_resultValue : PipeReg.empty.resultValue = 0#8 := rfl
@[simp] theorem empty_resultReady : PipeReg.empty.resultReady = false := rfl
@[simp] theorem empty_executed : PipeReg.empty.executed = false := rfl
@[simp] theorem bubbled_valid : PipeReg.bubbled.valid = false := rfl
@[simp] theorem bubbled_bubble : PipeReg.bubbled.bubble = true := rfl
@[simp] theorem bubbled_opcode : PipeReg.bubbled.opcode = 0#4 := rfl
@[simp] theorem bubbled_operand : PipeReg.bubbled.operand = 0#4 := rfl
@[simp] theorem bubbled_imm : PipeReg.bubbled.imm = 0#8 := rfl
@[simp] theorem bubbled_pc : PipeReg.bubbled.pc = 0#8 := rfl
@[simp] theorem bubbled_isLoad : PipeReg.bubbled.isLoad = false := rfl
@[simp] theorem bubbled_destReg : PipeReg.bubbled.destReg = 0#4 := rfl
@[simp] theorem bubbled_producesResult : PipeReg.bubbled.producesResult = false := rfl
@[simp] theorem bubbled_resultValue : PipeReg.bubbled.resultValue = 0#8 := rfl
@[simp] theorem bubbled_resultReady : PipeReg.bubbled.resultReady = false := rfl
@[simp] theorem bubbled_executed : PipeReg.bubbled.executed = false := rfl
@[simp] theorem fresh_valid : CacheLine.fresh.valid = false := rfl
@[simp] theorem zero_cycles : Counters.zero.cycles = 0 := rfl
@[simp] theorem zero_instructions : Counters.zero.instructions = 0 := rfl
@[simp] theorem zero_hazardStalls : Counters.zero.hazardStalls = 0 := rfl
@[simp] theorem zero_cacheStallCycles : Counters.zero.cacheStallCycles = 0 := rfl
@[simp] theorem zero_flushes : Counters.zero.flushes = 0 := rfl
@[simp] theorem zero_forwards : Counters.zero.forwards = 0 := rfl
@[simp] theorem zero_cacheHits : Counters.zero.cacheHits = 0 := rfl
@[simp] theorem zero_cacheMisses : Counters.zero.cacheMisses = 0 := rfl

end Sys2Proof.Laws
end

