-- ==== Sys2Proof/Laws/Ops.lean ====
section
/-! SUPPORT. The laws of the shared operations: the register file, the cache lines, and one lemma for each access
that says everything it can do. -/

namespace Sys2Proof.Laws

open Sys2Proof Sys2Proof.Machine

/-! ## Views under the named updates -/

@[simp] theorem readReg_setMar (s : State) (ea : Addr) (q : Sel) : readReg (setMar s ea) q = readReg s q := rfl
@[simp] theorem readReg_setMdr (s : State) (d : Byte) (q : Sel) : readReg (setMdr s d) q = readReg s q := rfl
@[simp] theorem readReg_setFlags (s : State) (z c : Bool) (q : Sel) : readReg (setFlags s z c) q = readReg s q := rfl
@[simp] theorem readReg_setLine (s : State) (i : BitVec 3) (l : CacheLine) (q : Sel) :
    readReg (setLine s i l) q = readReg s q := rfl
@[simp] theorem readReg_fillLine (s : State) (a : Addr) (d : Byte) (q : Sel) :
    readReg (fillLine s a d) q = readReg s q := rfl
@[simp] theorem readReg_countHit (s : State) (q : Sel) : readReg (countHit s) q = readReg s q := rfl
@[simp] theorem readReg_countMiss (s : State) (q : Sel) : readReg (countMiss s) q = readReg s q := rfl
@[simp] theorem readReg_storeByte (s : State) (a : Addr) (v : Byte) (q : Sel) :
    readReg (storeByte s a v) q = readReg s q := rfl
@[simp] theorem readReg_markResult (s : State) (v : Byte) (q : Sel) : readReg (markResult s v) q = readReg s q := rfl
@[simp] theorem readReg_returnStall (s : State) (n : BitVec 3) (q : Sel) :
    readReg (returnStall s n) q = readReg s q := rfl
@[simp] theorem readReg_jumpTo (s : State) (target : Addr) (q : Sel) :
    readReg (jumpTo s target) q = readReg s q := rfl
@[simp] theorem readReg_setHalted (s : State) (q : Sel) : readReg (setHalted s) q = readReg s q := rfl
@[simp] theorem readReg_raise (e : Fault) (s : State) (q : Sel) : readReg (raise e s) q = readReg s q := rfl
@[simp] theorem readReg_beginCycle (s : State) (q : Sel) : readReg (beginCycle s) q = readReg s q := rfl
@[simp] theorem readReg_gateCycle (s : State) (q : Sel) : readReg (gateCycle s) q = readReg s q := rfl
@[simp] theorem readReg_clearReady (s : State) (q : Sel) : readReg (clearReady s) q = readReg s q := rfl
@[simp] theorem readReg_retire (s : State) (q : Sel) : readReg (retire s) q = readReg s q := rfl
@[simp] theorem readReg_recordStall (s : State) (q : Sel) : readReg (recordStall s) q = readReg s q := rfl
@[simp] theorem readReg_drain (s : State) (q : Sel) : readReg (drain s) q = readReg s q := rfl
@[simp] theorem readReg_recordForward (s : State) (v : Byte) (q : Sel) :
    readReg (recordForward s v) q = readReg s q := rfl
@[simp] theorem readReg_insertBubble (s : State) (q : Sel) : readReg (insertBubble s) q = readReg s q := rfl
@[simp] theorem readReg_latchNext (s : State) (w : Word) (q : Sel) : readReg (latchNext s w) q = readReg s q := rfl

@[simp] theorem lineAt_writeReg (s : State) (r : Sel) (v : Byte) (j : BitVec 3) :
    lineAt (writeReg s r v) j = lineAt s j := rfl
@[simp] theorem lineAt_setMar (s : State) (ea : Addr) (j : BitVec 3) : lineAt (setMar s ea) j = lineAt s j := rfl
@[simp] theorem lineAt_setMdr (s : State) (d : Byte) (j : BitVec 3) : lineAt (setMdr s d) j = lineAt s j := rfl
@[simp] theorem lineAt_setFlags (s : State) (z c : Bool) (j : BitVec 3) :
    lineAt (setFlags s z c) j = lineAt s j := rfl
@[simp] theorem lineAt_countHit (s : State) (j : BitVec 3) : lineAt (countHit s) j = lineAt s j := rfl
@[simp] theorem lineAt_countMiss (s : State) (j : BitVec 3) : lineAt (countMiss s) j = lineAt s j := rfl
@[simp] theorem lineAt_storeByte (s : State) (a : Addr) (v : Byte) (j : BitVec 3) :
    lineAt (storeByte s a v) j = lineAt s j := rfl
@[simp] theorem lineAt_markResult (s : State) (v : Byte) (j : BitVec 3) :
    lineAt (markResult s v) j = lineAt s j := rfl
@[simp] theorem lineAt_returnStall (s : State) (n : BitVec 3) (j : BitVec 3) :
    lineAt (returnStall s n) j = lineAt s j := rfl
@[simp] theorem lineAt_writeResult (s : State) (r : Sel) (v : Byte) (j : BitVec 3) :
    lineAt (writeResult s r v) j = lineAt s j := rfl
@[simp] theorem lineAt_finishLoad (r : Sel) (acc : Access) (j : BitVec 3) :
    lineAt (finishLoad r acc) j = lineAt acc.state j := rfl
@[simp] theorem lineAt_jumpTo (s : State) (target : Addr) (j : BitVec 3) :
    lineAt (jumpTo s target) j = lineAt s j := rfl
@[simp] theorem lineAt_setHalted (s : State) (j : BitVec 3) : lineAt (setHalted s) j = lineAt s j := rfl
@[simp] theorem lineAt_raise (e : Fault) (s : State) (j : BitVec 3) : lineAt (raise e s) j = lineAt s j := rfl
@[simp] theorem lineAt_beginCycle (s : State) (j : BitVec 3) : lineAt (beginCycle s) j = lineAt s j := rfl
@[simp] theorem lineAt_gateCycle (s : State) (j : BitVec 3) : lineAt (gateCycle s) j = lineAt s j := rfl
@[simp] theorem lineAt_clearReady (s : State) (j : BitVec 3) : lineAt (clearReady s) j = lineAt s j := rfl
@[simp] theorem lineAt_retire (s : State) (j : BitVec 3) : lineAt (retire s) j = lineAt s j := rfl
@[simp] theorem lineAt_recordStall (s : State) (j : BitVec 3) : lineAt (recordStall s) j = lineAt s j := rfl
@[simp] theorem lineAt_drain (s : State) (j : BitVec 3) : lineAt (drain s) j = lineAt s j := rfl
@[simp] theorem lineAt_recordForward (s : State) (v : Byte) (j : BitVec 3) :
    lineAt (recordForward s v) j = lineAt s j := rfl
@[simp] theorem lineAt_insertBubble (s : State) (j : BitVec 3) : lineAt (insertBubble s) j = lineAt s j := rfl
@[simp] theorem lineAt_latchNext (s : State) (w : Word) (j : BitVec 3) : lineAt (latchNext s w) j = lineAt s j := rfl

/-! ## Registers -/

/-- Register 0 reads 0 in every state (R11). -/
@[simp] theorem readReg_zero (s : State) : readReg s 0#4 = 0#8 := rfl

/-- A register is read from the register file alone. -/
theorem readReg_congr {s t : State} (h : t.regs = s.regs) (q : Sel) : readReg t q = readReg s q := by
  simp only [readReg, h]

theorem readReg_writeReg_same (s : State) {r : Sel} (v : Byte) (hr : r ≠ 0#4) : readReg (writeReg s r v) r = v := by
  simp only [readReg, hr, if_false, writeReg_regs]
  exact Vector.getElem_set_self _

theorem readReg_writeReg_other (s : State) {r q : Sel} (v : Byte) (h : q ≠ r) :
    readReg (writeReg s r v) q = readReg s q := by
  by_cases hq : q = 0#4
  · simp [readReg, hq]
  · by_cases hr : r = 0#4
    · simp [readReg, writeReg_regs, hr]
    · simp only [readReg, hq, hr, if_false, writeReg_regs]
      exact Vector.getElem_set_ne _ _ (fun hh => h (BitVec.eq_of_toNat_eq hh.symm))

/-! ## Cache lines -/

@[simp] theorem lineAt_setLine_same (s : State) (i : BitVec 3) (l : CacheLine) : lineAt (setLine s i l) i = l := by
  simp [lineAt]

theorem lineAt_setLine_other (s : State) {i j : BitVec 3} (l : CacheLine) (h : j ≠ i) :
    lineAt (setLine s i l) j = lineAt s j := by
  simp only [lineAt, setLine_lines]
  exact Vector.getElem_set_ne _ _ (fun hh => h (BitVec.eq_of_toNat_eq hh.symm))

@[simp] theorem lineAt_fillLine_same (s : State) (a : Addr) (d : Byte) :
    lineAt (fillLine s a d) (cacheIndex a) = { valid := true, tag := cacheTag a, data := d } := by
  simp [fillLine]

theorem lineAt_fillLine_other (s : State) (a : Addr) (d : Byte) {j : BitVec 3} (h : j ≠ cacheIndex a) :
    lineAt (fillLine s a d) j = lineAt s j := lineAt_setLine_other s _ h

/-- The tag and the index of an address put together are the address (R52). -/
theorem tag_append_index (a : Addr) : cacheTag a ++ cacheIndex a = a := by
  apply BitVec.eq_of_getLsbD_eq
  intro i hi
  simp only [cacheTag, cacheIndex, BitVec.getLsbD_append, BitVec.getLsbD_extractLsb']
  by_cases h : i < 3
  · simp [h]
  · simp [h, show i - 3 < 5 by omega, show 3 + (i - 3) = i by omega]

theorem cacheIndex_append (t : BitVec 5) (i : BitVec 3) : cacheIndex (t ++ i) = i := by
  apply BitVec.eq_of_getLsbD_eq
  intro j hj
  have h := BitVec.getLsbD_append (x := t) (y := i) (i := j)
  simp only [hj, if_true] at h
  simpa [cacheIndex, hj] using h

theorem cacheTag_append (t : BitVec 5) (i : BitVec 3) : cacheTag (t ++ i) = t := by
  apply BitVec.eq_of_getLsbD_eq
  intro j hj
  have h := BitVec.getLsbD_append (x := t) (y := i) (i := 3 + j)
  simp only [show ¬ 3 + j < 3 by omega, if_false, show 3 + j - 3 = j by omega] at h
  simpa [cacheTag, hj] using h

/-- The cell a line maps is the address with that index and that tag (R25). -/
theorem line_address_iff (a : Addr) (i : BitVec 3) (t : BitVec 5) :
    BitVec.ofNat 8 (t.toNat * 8 + i.toNat) = a ↔ i = cacheIndex a ∧ t = cacheTag a := by
  constructor
  · rintro rfl
    revert i t
    decide
  · rintro ⟨rfl, rfl⟩
    revert a
    decide

/-! ## Accesses -/

/-- Everything the data read of LOAD can do (R110, R50, R54). -/
theorem dataRead_cases (s : State) (a : Addr) :
    (s.cacheEn = false ∧ dataRead s a = { state := s, data := memRead s.mem a, hit := false, stall := 0#3 }) ∨
    (s.cacheEn = true ∧ cacheHit s a = true ∧
      dataRead s a = { state := countHit s, data := (lineAt s (cacheIndex a)).data, hit := true, stall := 0#3 }) ∨
    (s.cacheEn = true ∧ cacheHit s a = false ∧
      dataRead s a = { state := countMiss (fillLine s a (memRead s.mem a)), data := memRead s.mem a,
                       hit := false, stall := missStall }) := by
  by_cases h : s.cacheEn = true
  · by_cases hh : cacheHit s a = true
    · exact .inr (.inl ⟨h, hh, by simp [dataRead, cacheRead, h, hh]⟩)
    · exact .inr (.inr ⟨h, by simpa using hh, by simp [dataRead, cacheRead, h, hh]⟩)
  · exact .inl ⟨by simpa using h, by simp [dataRead, h]⟩

/-- Everything the data write of STORE can do (R111, R51, R54). -/
theorem dataWrite_cases (s : State) (a : Addr) (v : Byte) :
    (s.cacheEn = false ∧ dataWrite s a v = { state := storeByte s a v, data := v, hit := false, stall := 0#3 }) ∨
    (s.cacheEn = true ∧ cacheHit s a = true ∧
      dataWrite s a v =
        { state := countHit (setLine (storeByte s a v) (cacheIndex a) { lineAt s (cacheIndex a) with data := v }),
          data := v, hit := true, stall := 0#3 }) ∨
    (s.cacheEn = true ∧ cacheHit s a = false ∧
      dataWrite s a v =
        { state := countMiss (fillLine (storeByte s a v) a v), data := v, hit := false, stall := missStall }) := by
  by_cases h : s.cacheEn = true
  · by_cases hh : cacheHit s a = true
    · exact .inr (.inl ⟨h, hh, by simp [dataWrite, cacheWrite, h, hh]⟩)
    · exact .inr (.inr ⟨h, by simpa using hh, by simp [dataWrite, cacheWrite, h, hh]⟩)
  · exact .inl ⟨by simpa using h, by simp [dataWrite, h]⟩

/-! ## Latching -/

/-- The instruction a latched word stands for is the decoded word (R74: one decoder for the peek and the latch). -/
@[simp] theorem latch_instr (w : Word) (a : Addr) : (latch w a).instr = decode w := rfl

@[simp] theorem latch_valid (w : Word) (a : Addr) : (latch w a).valid = true := rfl
@[simp] theorem latch_executed (w : Word) (a : Addr) : (latch w a).executed = false := rfl
@[simp] theorem latch_pc (w : Word) (a : Addr) : (latch w a).pc = a := rfl
@[simp] theorem latch_isLoad (w : Word) (a : Addr) : (latch w a).isLoad = isLoadOp (opcodeOf w) := rfl
@[simp] theorem latch_destReg (w : Word) (a : Addr) : (latch w a).destReg = operandOf w := rfl

/-- A fetch fails exactly past the end of memory (R41, R44). -/
theorem memFetch_none_iff (m : Memory) (pc : PcWord) : memFetch m pc = none ↔ 256 ≤ pc.toNat := by
  simp [memFetch]

theorem memFetch_some (m : Memory) {pc : PcWord} (h : pc.toNat < 256) :
    memFetch m pc = some (cellAt m (pc.setWidth 8)) := by
  simp [memFetch, Nat.not_le.mpr h]

end Sys2Proof.Laws
end

