-- ==== Sys2Proof/Laws/Alu.lean ====
section
/-! SUPPORT. The operands and results of the ALU as numbers, and what the result write leaves. -/

namespace Sys2Proof.Laws

open Sys2Proof Sys2Proof.Machine

theorem lowNibble_toNat (v : Byte) : (lowNibble v).toNat = nibbleNat v := by
  simp only [lowNibble, nibbleNat, BitVec.extractLsb'_toNat, Nat.shiftRight_zero]

theorem lowNibble_toInt (v : Byte) : (lowNibble v).toInt = nibbleInt v := by
  have h := lowNibble_toNat v
  simp only [nibbleNat] at h
  simp only [BitVec.toInt_eq_toNat_cond, nibbleInt, h]
  split <;> split <;> omega

theorem nextSel_eq (r : Sel) : nextSel r = secondSource r := by
  apply BitVec.eq_of_toNat_eq
  simp [nextSel, secondSource, BitVec.toNat_add]

theorem operandA_toNat (s : State) (r : Sel) : (operandA s r).toNat = nibbleNat (readReg s r) := lowNibble_toNat _

theorem operandB_toNat (s : State) (r : Sel) : (operandB s r).toNat = nibbleNat (readReg s (nextSel r)) := by
  rw [nextSel_eq]; exact lowNibble_toNat _

theorem operandA_toInt (s : State) (r : Sel) : (operandA s r).toInt = nibbleInt (readReg s r) := lowNibble_toInt _

theorem operandB_toInt (s : State) (r : Sel) : (operandB s r).toInt = nibbleInt (readReg s (nextSel r)) := by
  rw [nextSel_eq]; exact lowNibble_toInt _

theorem widen_toNat (n : Nibble) : (widen n).toNat = n.toNat := by
  have := n.isLt
  simp only [widen, BitVec.toNat_setWidth]; omega

theorem aluAdd_toNat (a b : Nibble) : (aluAdd a b).toNat = (a.toNat + b.toNat) % 16 := by
  simp [aluAdd]

theorem aluSub_toNat (a b : Nibble) : ((aluSub a b).toNat : Int) = ((a.toNat : Int) - (b.toNat : Int)) % 16 := by
  simp only [aluSub, BitVec.toNat_ofInt]
  omega

theorem aluDiv_toNat (a b : Nibble) : ((aluDiv a b).toNat : Int) = divQuotient a b % 16 := by
  simp only [aluDiv, BitVec.toNat_ofInt]
  omega

/-- A result written through the register file and the pipeline register. -/
theorem writeResult_written (s : State) (r : Sel) (v : Byte) : ResultWritten r v s (writeResult s r v) := by
  refine ⟨fun h => ⟨readReg_writeReg_same s v h, ?_⟩, fun h => ⟨?_, ?_⟩, rfl, rfl, rfl⟩
  · simp [writeResult, h]
  · subst h; rfl
  · simp [writeResult, h]

/-- What the result write leaves alone. -/
theorem writeResult_frame (s : State) (r : Sel) (v : Byte) : AluFrame r s (writeResult s r v) :=
  ⟨⟨rfl, ⟨rfl, rfl, rfl, rfl, rfl⟩, ⟨rfl, rfl, rfl, rfl, rfl, rfl, rfl, rfl⟩, ⟨rfl, rfl, rfl, rfl⟩⟩,
    fun _ hq => readReg_writeReg_other s v hq, fun _ => rfl, ⟨rfl, rfl⟩, fun _ => rfl, rfl, rfl, rfl, rfl, rfl⟩

end Sys2Proof.Laws
end

