-- ==== Sys2Proof/Laws/Assembler.lean ====
section
/-! SUPPORT. The laws of the token `ACC` (30_encoding.md R78 (b)). -/

namespace Sys2Proof.Laws

open Sys2Proof Sys2Proof.Machine

/-- A statement is the one `ACC` refers to exactly when it assembles to an ADD that writes a register. -/
theorem sumRegister_eq_some (a : Asm) (r : Sel) :
    sumRegister a = some r ↔ r ≠ 0#4 ∧ ∃ imm, assemble a = some (.add r imm) := by
  unfold sumRegister
  split
  · next q imm h =>
    rw [h]
    by_cases hq : q = 0#4
    · simp only [hq, if_true, reduceCtorEq, Option.some.injEq, Instr.add.injEq, false_iff, not_and, not_exists]
      exact fun hr _ h0 _ => hr h0.symm
    · simp only [hq, if_false, Option.some.injEq, Instr.add.injEq]
      exact ⟨fun h => ⟨h ▸ hq, imm, h, rfl⟩, fun h => h.2.choose_spec.1⟩
  · next h =>
    simp only [reduceCtorEq, false_iff, not_and, not_exists]
    intro _ imm h'
    exact h r imm h'

/-- Only `STORE ACC,a` is read another way, and only where `ACC` stands for a register. -/
theorem resolveAcc_cases (acc : Option Sel) (a : Asm) :
    resolveAcc acc a = a ∨
      ∃ (r : Sel) (addr : Nat), acc = some r ∧ a = .store .acc addr ∧ resolveAcc acc a = .store (.r r.toNat) addr := by
  unfold resolveAcc
  split
  · next addr r => exact .inr ⟨r, addr, rfl, rfl, rfl⟩
  · exact .inl rfl

/-- Right after a statement whose result a register `r` holds, `STORE ACC,a` has the word of `STORE Rr,a`. -/
theorem assembleFrom_store_acc {add : Asm} {r : Sel} (h : sumRegister add = some r) (acc : Option Sel) (addr : Nat)
    (rest : List (Option Asm)) :
    assembleFrom acc (some add :: some (.store .acc addr) :: rest) =
      assembleWord (resolveAcc acc add) :: assembleWord (.store (.r r.toNat) addr) ::
        assembleFrom none rest := by
  simp only [assembleFrom, h, resolveAcc]
  rfl

end Sys2Proof.Laws
end

