-- ==== Sys2Proof/Laws/Step.lean ====
section
/-! SUPPORT. What one step can do, said once: an equation for each arm of `exec`, and a case lemma for each procedure
of the cycle. Later proofs cite these and unfold none of them. -/

namespace Sys2Proof.Laws

open Sys2Proof Sys2Proof.Machine

/-! ## The arms of exec, as states -/

/-- The state the execute step of an instruction leaves; `exec` answers it (`exec_eq`). -/
def after (i : Instr) (s : State) : State :=
  match exec i s with
  | .next t => t
  | .fault _ => s
  | .refused _ => s

/-- Every instruction goes on, in every state (R74, R96, R174). -/
theorem exec_eq (i : Instr) (s : State) : exec i s = .next (after i s) := by cases i <;> rfl

theorem after_nop (o : Sel) (m : Byte) (s : State) : after (.nop o m) s = returnStall s 0#3 := rfl

theorem after_load (r : Sel) (a : Addr) (s : State) :
    after (.load r a) s = finishLoad r (dataRead (setMar s a) a) := rfl

theorem after_store (r : Sel) (a : Addr) (s : State) :
    after (.store r a) s =
      returnStall (dataWrite (setMdr (setMar s a) (readReg s r)) a (readReg s r)).state
        (dataWrite (setMdr (setMar s a) (readReg s r)) a (readReg s r)).stall := rfl

theorem after_add (r : Sel) (m : Byte) (s : State) :
    after (.add r m) s =
      setFlags (writeResult s r (widen (aluAdd (operandA s r) (operandB s r))))
        (zeroFlag (aluAdd (operandA s r) (operandB s r))) (addCarry (operandA s r) (operandB s r)) := rfl

theorem after_sub (r : Sel) (m : Byte) (s : State) :
    after (.sub r m) s =
      setFlags (writeResult s r (widen (aluSub (operandA s r) (operandB s r))))
        (zeroFlag (aluSub (operandA s r) (operandB s r)))
        (subCarryFlag s.params.subCarry (operandA s r) (operandB s r)) := rfl

theorem after_mul (r : Sel) (m : Byte) (s : State) :
    after (.mul r m) s = writeResult s r (aluMul (operandA s r) (operandB s r)) := rfl

theorem after_div (r : Sel) (m : Byte) (s : State) :
    after (.div r m) s = writeResult s r (widen (aluDiv (operandA s r) (operandB s r))) := rfl

theorem after_jmp (o : Sel) (a : Addr) (s : State) : after (.jmp o a) s = returnStall (jumpTo s a) 0#3 := rfl

theorem after_halt (o : Sel) (m : Byte) (s : State) : after (.halt o m) s = returnStall (setHalted s) 0#3 := rfl

theorem after_rsvd1001 (o : Sel) (m : Byte) (s : State) : after (.rsvd1001 o m) s = returnStall s 0#3 := rfl

theorem after_rsvd101x (x : BitVec 1) (o : Sel) (m : Byte) (s : State) :
    after (.rsvd101x x o m) s = returnStall s 0#3 := rfl

theorem after_rsvd11xx (x : BitVec 2) (o : Sel) (m : Byte) (s : State) :
    after (.rsvd11xx x o m) s = returnStall s 0#3 := rfl

/-! ## The procedures of the cycle -/

theorem executeStep_eq (s : State) :
    executeStep s = .next (if toExecute s then retire (after s.pr.instr (clearReady s)) else s) := by
  by_cases h : toExecute s = true <;> simp [executeStep, h, exec_eq, onNext]

/-- Everything step 4 can do to a state (R136, R137, R139). -/
theorem resolveHazard_cases (s : State) (w : Word) :
    (hazard s w = false ∧ resolveHazard s w = s) ∨
    (∃ v, hazard s w = true ∧ forward s s.pr.destReg = some v ∧ resolveHazard s w = recordForward s v) ∨
    (hazard s w = true ∧ forward s s.pr.destReg = none ∧ resolveHazard s w = insertBubble s) := by
  by_cases h : hazard s w = true
  · cases hf : forward s s.pr.destReg with
    | none => exact .inr (.inr ⟨h, rfl, by simp [resolveHazard, h, hf]⟩)
    | some v => exact .inr (.inl ⟨v, h, rfl, by simp [resolveHazard, h, hf]⟩)
  · exact .inl ⟨by simpa using h, by simp [resolveHazard, h]⟩

theorem advance_stalled {s : State} (w : Word) (h : s.out.stalled = true) : advance s w = s := by simp [advance, h]

theorem advance_going {s : State} (w : Word) (h : s.out.stalled = false) : advance s w = latchNext s w := by
  simp [advance, h]

/-- Everything steps 4 and 5 can do to a state that has not stalled (R135 to R140, R171). -/
theorem fetchSteps_cases {s : State} (hs : s.out.stalled = false) :
    (256 ≤ s.pc.toNat ∧ fetchSteps s = raise (.outOfBounds .fetch s.pc.toNat) s) ∨
    (∃ w, s.pc.toNat < 256 ∧ w = cellAt s.mem (s.pc.setWidth 8) ∧
      ((hazard s w = false ∧ fetchSteps s = latchNext s w) ∨
       (∃ v, hazard s w = true ∧ forward s s.pr.destReg = some v ∧
         fetchSteps s = latchNext (recordForward s v) w) ∨
       (hazard s w = true ∧ forward s s.pr.destReg = none ∧ fetchSteps s = insertBubble s))) := by
  by_cases hp : 256 ≤ s.pc.toNat
  · exact .inl ⟨hp, by simp [fetchSteps, (memFetch_none_iff s.mem s.pc).mpr hp]⟩
  · have hp' : s.pc.toNat < 256 := by omega
    refine .inr ⟨_, hp', rfl, ?_⟩
    have hfetch : fetchSteps s = advance (resolveHazard s (cellAt s.mem (s.pc.setWidth 8)))
        (cellAt s.mem (s.pc.setWidth 8)) := by simp [fetchSteps, memFetch_some s.mem hp']
    rw [hfetch]
    rcases resolveHazard_cases s (cellAt s.mem (s.pc.setWidth 8)) with ⟨h, e⟩ | ⟨v, h, hv, e⟩ | ⟨h, hv, e⟩
    · exact .inl ⟨h, by rw [e, advance_going _ hs]⟩
    · exact .inr (.inl ⟨v, h, hv, by rw [e, advance_going _ (by simpa using hs)]⟩)
    · exact .inr (.inr ⟨h, hv, by rw [e, advance_stalled _ (by simp)]⟩)

/-- Everything steps 3 to 6 can do (R133, R134). -/
theorem finishCycle_cases (s : State) :
    (s.out.stall ≠ 0#3 ∧ finishCycle s = recordStall s) ∨
    (s.out.stall = 0#3 ∧ s.halted = true ∧ finishCycle s = drain s) ∨
    (s.out.stall = 0#3 ∧ s.halted = false ∧ finishCycle s = fetchSteps s) := by
  by_cases h : s.out.stall = 0#3
  · by_cases hh : s.halted = true
    · exact .inr (.inl ⟨h, hh, by simp [finishCycle, h, hh]⟩)
    · exact .inr (.inr ⟨h, by simpa using hh, by simp [finishCycle, h, hh]⟩)
  · exact .inl ⟨h, by simp [finishCycle, h]⟩

theorem cycle_eq (s : State) :
    cycle s = .next (if s.cacheStallRemaining ≠ 0#3 then gateCycle (beginCycle s)
      else finishCycle (if toExecute (beginCycle s) then
        retire (after (beginCycle s).pr.instr (clearReady (beginCycle s))) else beginCycle s)) := by
  by_cases h : s.cacheStallRemaining = 0#3
  · simp [cycle, cycleBody, h, executeStep_eq, onNext]
  · simp [cycle, cycleBody, h]

/-- Everything a step can do, with its guards (R130, R131, R132, R150, R151, R170, R172). -/
theorem step_cases {s t : State} (h : step s = .next t) :
    (stuck s = true ∧ t = s) ∨
    (stuck s = false ∧ s.params.maxCycles ≤ s.ctr.cycles ∧ t = raise (.nonTermination s.ctr.cycles) s) ∨
    (stuck s = false ∧ s.ctr.cycles < s.params.maxCycles ∧ s.cacheStallRemaining ≠ 0#3 ∧
      t = gateCycle (beginCycle s)) ∨
    (stuck s = false ∧ s.ctr.cycles < s.params.maxCycles ∧ s.cacheStallRemaining = 0#3 ∧ toExecute s = false ∧
      t = finishCycle (beginCycle s)) ∨
    (stuck s = false ∧ s.ctr.cycles < s.params.maxCycles ∧ s.cacheStallRemaining = 0#3 ∧ toExecute s = true ∧
      t = finishCycle (retire (after s.pr.instr (clearReady (beginCycle s))))) := by
  by_cases hst : stuck s = true
  · left; refine ⟨hst, ?_⟩
    simp only [step, runLoopStep, hst, if_true] at h
    cases h; rfl
  have hst' : stuck s = false := by simpa using hst
  by_cases hc : s.params.maxCycles ≤ s.ctr.cycles
  · right; left; refine ⟨hst', hc, ?_⟩
    simp only [step, runLoopStep, hst', hc, if_true] at h
    cases h; rfl
  have hc' : s.ctr.cycles < s.params.maxCycles := by omega
  simp only [step, runLoopStep, hst', hc, if_false, cycle_eq, Bool.false_eq_true] at h
  have h := (Host.Outcome.next.inj h).symm
  by_cases h0 : s.cacheStallRemaining = 0#3
  · simp only [h0, ne_eq, not_true_eq_false, if_false] at h
    by_cases hx : toExecute s = true
    · refine .inr (.inr (.inr (.inr ⟨hst', hc', h0, hx, ?_⟩)))
      have hx' : toExecute (beginCycle s) = true := hx
      simpa [hx'] using h
    · have hx0 : toExecute s = false := by simpa using hx
      refine .inr (.inr (.inr (.inl ⟨hst', hc', h0, hx0, ?_⟩)))
      have hx' : toExecute (beginCycle s) = false := hx0
      simpa [hx'] using h
  · exact .inr (.inr (.inl ⟨hst', hc', h0, by simpa [h0] using h⟩))

/-! ## Runs -/

theorem stepN_succ {k : Nat} {s t : State} (h : step s = .next t) : stepN (k + 1) s = stepN k t := by
  simp [stepN, h]

/-- What holds before a run and is kept by every step holds after it. -/
theorem stepN_keeps {P : State → Prop} (hstep : ∀ s t, P s → step s = .next t → P t) :
    ∀ (k : Nat) (s t : State), P s → stepN k s = .next t → P t := by
  intro k
  induction k with
  | zero => intro s t hs h; simp only [stepN] at h; cases h; exact hs
  | succ k ih =>
    intro s t hs h
    simp only [stepN] at h
    cases hu : step s with
    | next u => rw [hu] at h; exact ih u t (hstep s u hs hu) h
    | fault r => rw [hu] at h; cases h
    | refused r => rw [hu] at h; cases h

end Sys2Proof.Laws
end

