-- ==== Sys2Proof/Laws/Cycle.lean ====
section
/-! SUPPORT. What the procedures of the cycle leave alone: the execute step never touches the configuration or the
instruction in PR, and steps 3 to 6 never touch what a program computes. -/

namespace Sys2Proof.Laws

open Sys2Proof Sys2Proof.Machine

/-! ## Steps 3 to 6 -/

@[simp] theorem resolveHazard_regs (s : State) (w : Word) : (resolveHazard s w).regs = s.regs := by
  rcases resolveHazard_cases s w with ⟨_, e⟩ | ⟨_, _, _, e⟩ | ⟨_, _, e⟩ <;> simp [e]

@[simp] theorem advance_regs (s : State) (w : Word) : (advance s w).regs = s.regs := by
  cases h : s.out.stalled <;> simp [advance, h]

@[simp] theorem fetchSteps_regs (s : State) : (fetchSteps s).regs = s.regs := by
  simp only [fetchSteps]; split <;> simp

@[simp] theorem finishCycle_regs (s : State) : (finishCycle s).regs = s.regs := by
  rcases finishCycle_cases s with ⟨_, e⟩ | ⟨_, _, e⟩ | ⟨_, _, e⟩ <;> simp [e]

@[simp] theorem resolveHazard_z (s : State) (w : Word) : (resolveHazard s w).z = s.z := by
  rcases resolveHazard_cases s w with ⟨_, e⟩ | ⟨_, _, _, e⟩ | ⟨_, _, e⟩ <;> simp [e]

@[simp] theorem advance_z (s : State) (w : Word) : (advance s w).z = s.z := by
  cases h : s.out.stalled <;> simp [advance, h]

@[simp] theorem fetchSteps_z (s : State) : (fetchSteps s).z = s.z := by
  simp only [fetchSteps]; split <;> simp

@[simp] theorem finishCycle_z (s : State) : (finishCycle s).z = s.z := by
  rcases finishCycle_cases s with ⟨_, e⟩ | ⟨_, _, e⟩ | ⟨_, _, e⟩ <;> simp [e]

@[simp] theorem resolveHazard_c (s : State) (w : Word) : (resolveHazard s w).c = s.c := by
  rcases resolveHazard_cases s w with ⟨_, e⟩ | ⟨_, _, _, e⟩ | ⟨_, _, e⟩ <;> simp [e]

@[simp] theorem advance_c (s : State) (w : Word) : (advance s w).c = s.c := by
  cases h : s.out.stalled <;> simp [advance, h]

@[simp] theorem fetchSteps_c (s : State) : (fetchSteps s).c = s.c := by
  simp only [fetchSteps]; split <;> simp

@[simp] theorem finishCycle_c (s : State) : (finishCycle s).c = s.c := by
  rcases finishCycle_cases s with ⟨_, e⟩ | ⟨_, _, e⟩ | ⟨_, _, e⟩ <;> simp [e]

@[simp] theorem resolveHazard_halted (s : State) (w : Word) : (resolveHazard s w).halted = s.halted := by
  rcases resolveHazard_cases s w with ⟨_, e⟩ | ⟨_, _, _, e⟩ | ⟨_, _, e⟩ <;> simp [e]

@[simp] theorem advance_halted (s : State) (w : Word) : (advance s w).halted = s.halted := by
  cases h : s.out.stalled <;> simp [advance, h]

@[simp] theorem fetchSteps_halted (s : State) : (fetchSteps s).halted = s.halted := by
  simp only [fetchSteps]; split <;> simp

@[simp] theorem finishCycle_halted (s : State) : (finishCycle s).halted = s.halted := by
  rcases finishCycle_cases s with ⟨_, e⟩ | ⟨_, _, e⟩ | ⟨_, _, e⟩ <;> simp [e]

@[simp] theorem resolveHazard_mar (s : State) (w : Word) : (resolveHazard s w).mar = s.mar := by
  rcases resolveHazard_cases s w with ⟨_, e⟩ | ⟨_, _, _, e⟩ | ⟨_, _, e⟩ <;> simp [e]

@[simp] theorem advance_mar (s : State) (w : Word) : (advance s w).mar = s.mar := by
  cases h : s.out.stalled <;> simp [advance, h]

@[simp] theorem fetchSteps_mar (s : State) : (fetchSteps s).mar = s.mar := by
  simp only [fetchSteps]; split <;> simp

@[simp] theorem finishCycle_mar (s : State) : (finishCycle s).mar = s.mar := by
  rcases finishCycle_cases s with ⟨_, e⟩ | ⟨_, _, e⟩ | ⟨_, _, e⟩ <;> simp [e]

@[simp] theorem resolveHazard_mdr (s : State) (w : Word) : (resolveHazard s w).mdr = s.mdr := by
  rcases resolveHazard_cases s w with ⟨_, e⟩ | ⟨_, _, _, e⟩ | ⟨_, _, e⟩ <;> simp [e]

@[simp] theorem advance_mdr (s : State) (w : Word) : (advance s w).mdr = s.mdr := by
  cases h : s.out.stalled <;> simp [advance, h]

@[simp] theorem fetchSteps_mdr (s : State) : (fetchSteps s).mdr = s.mdr := by
  simp only [fetchSteps]; split <;> simp

@[simp] theorem finishCycle_mdr (s : State) : (finishCycle s).mdr = s.mdr := by
  rcases finishCycle_cases s with ⟨_, e⟩ | ⟨_, _, e⟩ | ⟨_, _, e⟩ <;> simp [e]

@[simp] theorem resolveHazard_fwdEn (s : State) (w : Word) : (resolveHazard s w).fwdEn = s.fwdEn := by
  rcases resolveHazard_cases s w with ⟨_, e⟩ | ⟨_, _, _, e⟩ | ⟨_, _, e⟩ <;> simp [e]

@[simp] theorem advance_fwdEn (s : State) (w : Word) : (advance s w).fwdEn = s.fwdEn := by
  cases h : s.out.stalled <;> simp [advance, h]

@[simp] theorem fetchSteps_fwdEn (s : State) : (fetchSteps s).fwdEn = s.fwdEn := by
  simp only [fetchSteps]; split <;> simp

@[simp] theorem finishCycle_fwdEn (s : State) : (finishCycle s).fwdEn = s.fwdEn := by
  rcases finishCycle_cases s with ⟨_, e⟩ | ⟨_, _, e⟩ | ⟨_, _, e⟩ <;> simp [e]

@[simp] theorem resolveHazard_cacheEn (s : State) (w : Word) : (resolveHazard s w).cacheEn = s.cacheEn := by
  rcases resolveHazard_cases s w with ⟨_, e⟩ | ⟨_, _, _, e⟩ | ⟨_, _, e⟩ <;> simp [e]

@[simp] theorem advance_cacheEn (s : State) (w : Word) : (advance s w).cacheEn = s.cacheEn := by
  cases h : s.out.stalled <;> simp [advance, h]

@[simp] theorem fetchSteps_cacheEn (s : State) : (fetchSteps s).cacheEn = s.cacheEn := by
  simp only [fetchSteps]; split <;> simp

@[simp] theorem finishCycle_cacheEn (s : State) : (finishCycle s).cacheEn = s.cacheEn := by
  rcases finishCycle_cases s with ⟨_, e⟩ | ⟨_, _, e⟩ | ⟨_, _, e⟩ <;> simp [e]

@[simp] theorem resolveHazard_lines (s : State) (w : Word) : (resolveHazard s w).lines = s.lines := by
  rcases resolveHazard_cases s w with ⟨_, e⟩ | ⟨_, _, _, e⟩ | ⟨_, _, e⟩ <;> simp [e]

@[simp] theorem advance_lines (s : State) (w : Word) : (advance s w).lines = s.lines := by
  cases h : s.out.stalled <;> simp [advance, h]

@[simp] theorem fetchSteps_lines (s : State) : (fetchSteps s).lines = s.lines := by
  simp only [fetchSteps]; split <;> simp

@[simp] theorem finishCycle_lines (s : State) : (finishCycle s).lines = s.lines := by
  rcases finishCycle_cases s with ⟨_, e⟩ | ⟨_, _, e⟩ | ⟨_, _, e⟩ <;> simp [e]

@[simp] theorem resolveHazard_mem (s : State) (w : Word) : (resolveHazard s w).mem = s.mem := by
  rcases resolveHazard_cases s w with ⟨_, e⟩ | ⟨_, _, _, e⟩ | ⟨_, _, e⟩ <;> simp [e]

@[simp] theorem advance_mem (s : State) (w : Word) : (advance s w).mem = s.mem := by
  cases h : s.out.stalled <;> simp [advance, h]

@[simp] theorem fetchSteps_mem (s : State) : (fetchSteps s).mem = s.mem := by
  simp only [fetchSteps]; split <;> simp

@[simp] theorem finishCycle_mem (s : State) : (finishCycle s).mem = s.mem := by
  rcases finishCycle_cases s with ⟨_, e⟩ | ⟨_, _, e⟩ | ⟨_, _, e⟩ <;> simp [e]

@[simp] theorem resolveHazard_params (s : State) (w : Word) : (resolveHazard s w).params = s.params := by
  rcases resolveHazard_cases s w with ⟨_, e⟩ | ⟨_, _, _, e⟩ | ⟨_, _, e⟩ <;> simp [e]

@[simp] theorem advance_params (s : State) (w : Word) : (advance s w).params = s.params := by
  cases h : s.out.stalled <;> simp [advance, h]

@[simp] theorem fetchSteps_params (s : State) : (fetchSteps s).params = s.params := by
  simp only [fetchSteps]; split <;> simp

@[simp] theorem finishCycle_params (s : State) : (finishCycle s).params = s.params := by
  rcases finishCycle_cases s with ⟨_, e⟩ | ⟨_, _, e⟩ | ⟨_, _, e⟩ <;> simp [e]


@[simp] theorem readReg_finishCycle (s : State) (q : Sel) : readReg (finishCycle s) q = readReg s q :=
  readReg_congr (finishCycle_regs s) q

@[simp] theorem lineAt_finishCycle (s : State) (i : BitVec 3) : lineAt (finishCycle s) i = lineAt s i := by
  simp [lineAt]

/-! ## The execute step -/

@[simp] theorem dataRead_regs (s : State) (a : Addr) : (dataRead s a).state.regs = s.regs := by
  rcases dataRead_cases s a with ⟨_, e⟩ | ⟨_, _, e⟩ | ⟨_, _, e⟩ <;> simp [e]

@[simp] theorem dataRead_pc (s : State) (a : Addr) : (dataRead s a).state.pc = s.pc := by
  rcases dataRead_cases s a with ⟨_, e⟩ | ⟨_, _, e⟩ | ⟨_, _, e⟩ <;> simp [e]

@[simp] theorem dataRead_z (s : State) (a : Addr) : (dataRead s a).state.z = s.z := by
  rcases dataRead_cases s a with ⟨_, e⟩ | ⟨_, _, e⟩ | ⟨_, _, e⟩ <;> simp [e]

@[simp] theorem dataRead_c (s : State) (a : Addr) : (dataRead s a).state.c = s.c := by
  rcases dataRead_cases s a with ⟨_, e⟩ | ⟨_, _, e⟩ | ⟨_, _, e⟩ <;> simp [e]

@[simp] theorem dataRead_halted (s : State) (a : Addr) : (dataRead s a).state.halted = s.halted := by
  rcases dataRead_cases s a with ⟨_, e⟩ | ⟨_, _, e⟩ | ⟨_, _, e⟩ <;> simp [e]

@[simp] theorem dataRead_mar (s : State) (a : Addr) : (dataRead s a).state.mar = s.mar := by
  rcases dataRead_cases s a with ⟨_, e⟩ | ⟨_, _, e⟩ | ⟨_, _, e⟩ <;> simp [e]

@[simp] theorem dataRead_mdr (s : State) (a : Addr) : (dataRead s a).state.mdr = s.mdr := by
  rcases dataRead_cases s a with ⟨_, e⟩ | ⟨_, _, e⟩ | ⟨_, _, e⟩ <;> simp [e]

@[simp] theorem dataRead_fwdEn (s : State) (a : Addr) : (dataRead s a).state.fwdEn = s.fwdEn := by
  rcases dataRead_cases s a with ⟨_, e⟩ | ⟨_, _, e⟩ | ⟨_, _, e⟩ <;> simp [e]

@[simp] theorem dataRead_cacheEn (s : State) (a : Addr) : (dataRead s a).state.cacheEn = s.cacheEn := by
  rcases dataRead_cases s a with ⟨_, e⟩ | ⟨_, _, e⟩ | ⟨_, _, e⟩ <;> simp [e]

@[simp] theorem dataRead_cacheStallRemaining (s : State) (a : Addr) : (dataRead s a).state.cacheStallRemaining = s.cacheStallRemaining := by
  rcases dataRead_cases s a with ⟨_, e⟩ | ⟨_, _, e⟩ | ⟨_, _, e⟩ <;> simp [e]

@[simp] theorem dataRead_fault (s : State) (a : Addr) : (dataRead s a).state.fault = s.fault := by
  rcases dataRead_cases s a with ⟨_, e⟩ | ⟨_, _, e⟩ | ⟨_, _, e⟩ <;> simp [e]

@[simp] theorem dataRead_pr (s : State) (a : Addr) : (dataRead s a).state.pr = s.pr := by
  rcases dataRead_cases s a with ⟨_, e⟩ | ⟨_, _, e⟩ | ⟨_, _, e⟩ <;> simp [e]

@[simp] theorem dataRead_out (s : State) (a : Addr) : (dataRead s a).state.out = s.out := by
  rcases dataRead_cases s a with ⟨_, e⟩ | ⟨_, _, e⟩ | ⟨_, _, e⟩ <;> simp [e]

@[simp] theorem dataRead_params (s : State) (a : Addr) : (dataRead s a).state.params = s.params := by
  rcases dataRead_cases s a with ⟨_, e⟩ | ⟨_, _, e⟩ | ⟨_, _, e⟩ <;> simp [e]

@[simp] theorem dataRead_mem (s : State) (a : Addr) : (dataRead s a).state.mem = s.mem := by
  rcases dataRead_cases s a with ⟨_, e⟩ | ⟨_, _, e⟩ | ⟨_, _, e⟩ <;> simp [e]

@[simp] theorem dataWrite_regs (s : State) (a : Addr) (v : Byte) : (dataWrite s a v).state.regs = s.regs := by
  rcases dataWrite_cases s a v with ⟨_, e⟩ | ⟨_, _, e⟩ | ⟨_, _, e⟩ <;> simp [e]

@[simp] theorem dataWrite_pc (s : State) (a : Addr) (v : Byte) : (dataWrite s a v).state.pc = s.pc := by
  rcases dataWrite_cases s a v with ⟨_, e⟩ | ⟨_, _, e⟩ | ⟨_, _, e⟩ <;> simp [e]

@[simp] theorem dataWrite_z (s : State) (a : Addr) (v : Byte) : (dataWrite s a v).state.z = s.z := by
  rcases dataWrite_cases s a v with ⟨_, e⟩ | ⟨_, _, e⟩ | ⟨_, _, e⟩ <;> simp [e]

@[simp] theorem dataWrite_c (s : State) (a : Addr) (v : Byte) : (dataWrite s a v).state.c = s.c := by
  rcases dataWrite_cases s a v with ⟨_, e⟩ | ⟨_, _, e⟩ | ⟨_, _, e⟩ <;> simp [e]

@[simp] theorem dataWrite_halted (s : State) (a : Addr) (v : Byte) : (dataWrite s a v).state.halted = s.halted := by
  rcases dataWrite_cases s a v with ⟨_, e⟩ | ⟨_, _, e⟩ | ⟨_, _, e⟩ <;> simp [e]

@[simp] theorem dataWrite_mar (s : State) (a : Addr) (v : Byte) : (dataWrite s a v).state.mar = s.mar := by
  rcases dataWrite_cases s a v with ⟨_, e⟩ | ⟨_, _, e⟩ | ⟨_, _, e⟩ <;> simp [e]

@[simp] theorem dataWrite_mdr (s : State) (a : Addr) (v : Byte) : (dataWrite s a v).state.mdr = s.mdr := by
  rcases dataWrite_cases s a v with ⟨_, e⟩ | ⟨_, _, e⟩ | ⟨_, _, e⟩ <;> simp [e]

@[simp] theorem dataWrite_fwdEn (s : State) (a : Addr) (v : Byte) : (dataWrite s a v).state.fwdEn = s.fwdEn := by
  rcases dataWrite_cases s a v with ⟨_, e⟩ | ⟨_, _, e⟩ | ⟨_, _, e⟩ <;> simp [e]

@[simp] theorem dataWrite_cacheEn (s : State) (a : Addr) (v : Byte) : (dataWrite s a v).state.cacheEn = s.cacheEn := by
  rcases dataWrite_cases s a v with ⟨_, e⟩ | ⟨_, _, e⟩ | ⟨_, _, e⟩ <;> simp [e]

@[simp] theorem dataWrite_cacheStallRemaining (s : State) (a : Addr) (v : Byte) : (dataWrite s a v).state.cacheStallRemaining = s.cacheStallRemaining := by
  rcases dataWrite_cases s a v with ⟨_, e⟩ | ⟨_, _, e⟩ | ⟨_, _, e⟩ <;> simp [e]

@[simp] theorem dataWrite_fault (s : State) (a : Addr) (v : Byte) : (dataWrite s a v).state.fault = s.fault := by
  rcases dataWrite_cases s a v with ⟨_, e⟩ | ⟨_, _, e⟩ | ⟨_, _, e⟩ <;> simp [e]

@[simp] theorem dataWrite_pr (s : State) (a : Addr) (v : Byte) : (dataWrite s a v).state.pr = s.pr := by
  rcases dataWrite_cases s a v with ⟨_, e⟩ | ⟨_, _, e⟩ | ⟨_, _, e⟩ <;> simp [e]

@[simp] theorem dataWrite_out (s : State) (a : Addr) (v : Byte) : (dataWrite s a v).state.out = s.out := by
  rcases dataWrite_cases s a v with ⟨_, e⟩ | ⟨_, _, e⟩ | ⟨_, _, e⟩ <;> simp [e]

@[simp] theorem dataWrite_params (s : State) (a : Addr) (v : Byte) : (dataWrite s a v).state.params = s.params := by
  rcases dataWrite_cases s a v with ⟨_, e⟩ | ⟨_, _, e⟩ | ⟨_, _, e⟩ <;> simp [e]


@[simp] theorem dataWrite_mem (s : State) (a : Addr) (v : Byte) :
    (dataWrite s a v).state.mem = memWrite s.mem a v := by
  rcases dataWrite_cases s a v with ⟨_, e⟩ | ⟨_, _, e⟩ | ⟨_, _, e⟩ <;> simp [e]

@[simp] theorem readReg_dataWrite (s : State) (a : Addr) (v : Byte) (q : Sel) :
    readReg (dataWrite s a v).state q = readReg s q := readReg_congr (dataWrite_regs s a v) q

@[simp] theorem readReg_dataRead (s : State) (a : Addr) (q : Sel) :
    readReg (dataRead s a).state q = readReg s q := readReg_congr (dataRead_regs s a) q

/-- No instruction touches the configuration, the countdown, the condition, the parameters, the instruction in PR or
the controller's outputs. -/
theorem after_keeps (i : Instr) (s : State) :
    ControlKept s (after i s) ∧ PipeFieldsKept s (after i s) ∧ FlowOutputsKept s (after i s) := by
  cases i <;>
    simp [after_nop, after_load, after_store, after_add, after_sub, after_mul, after_div, after_jmp, after_halt,
      after_rsvd1001, after_rsvd101x, after_rsvd11xx, ControlKept, PipeFieldsKept, FlowOutputsKept]

/-! ## When a step does what -/

theorem running_iff (s : State) :
    running s = true ↔ stuck s = false ∧ s.ctr.cycles < s.params.maxCycles := by
  simp [running]

theorem executing_iff (s : State) :
    executing s = true ↔
      stuck s = false ∧ s.ctr.cycles < s.params.maxCycles ∧ s.cacheStallRemaining = 0#3 ∧ toExecute s = true := by
  simp [executing, running]
  tauto

theorem stuck_eq_false_iff (s : State) :
    stuck s = false ↔ s.fault = none ∧ (s.halted = false ∨ s.pr.valid = true) := by
  cases h1 : s.fault <;> cases h2 : s.halted <;> cases h3 : s.pr.valid <;> simp [stuck, terminated, h1, h2, h3]

theorem pc_add_one {p : PcWord} (h : p.toNat < 256) : (p + 1#9).toNat = p.toNat + 1 := by
  simp [BitVec.toNat_add]
  omega

/-- Steps 3 to 6 in one list of cases, where the cycle has not stalled before them. -/
theorem finishCycle_all_cases {s : State} (hs : s.out.stalled = false) :
    (s.out.stall ≠ 0#3 ∧ finishCycle s = recordStall s) ∨
    (s.out.stall = 0#3 ∧ s.halted = true ∧ finishCycle s = drain s) ∨
    (s.out.stall = 0#3 ∧ s.halted = false ∧ 256 ≤ s.pc.toNat ∧
      finishCycle s = raise (.outOfBounds .fetch s.pc.toNat) s) ∨
    (∃ w, s.out.stall = 0#3 ∧ s.halted = false ∧ s.pc.toNat < 256 ∧ w = cellAt s.mem (s.pc.setWidth 8) ∧
      ((hazard s w = false ∧ finishCycle s = latchNext s w) ∨
       (∃ v, hazard s w = true ∧ forward s s.pr.destReg = some v ∧
         finishCycle s = latchNext (recordForward s v) w) ∨
       (hazard s w = true ∧ forward s s.pr.destReg = none ∧ finishCycle s = insertBubble s))) := by
  rcases finishCycle_cases s with ⟨h, e⟩ | ⟨h, h2, e⟩ | ⟨h, h2, e⟩
  · exact .inl ⟨h, e⟩
  · exact .inr (.inl ⟨h, h2, e⟩)
  · rcases fetchSteps_cases hs with ⟨h', e'⟩ | ⟨w, hp, hw, hc⟩
    · exact .inr (.inr (.inl ⟨h, h2, h', e.trans e'⟩))
    · exact .inr (.inr (.inr ⟨w, h, h2, hp, hw, by rw [e]; exact hc⟩))

/-- What the execute step does to `pc` and to the validity of PR: only JMP touches either (R14, R120). -/
theorem after_pc_valid (i : Instr) (s : State) :
    ((after i s).pc = s.pc ∧ (after i s).pr.valid = s.pr.valid) ∨
    (∃ o a, i = .jmp o a ∧ (after i s).pc = a.setWidth 9 ∧ (after i s).pr.valid = false) := by
  cases i with
  | jmp o a => exact .inr ⟨o, a, rfl, by simp [after_jmp], by simp [after_jmp]⟩
  | _ =>
    left
    simp [after_load, after_store, after_nop, after_add, after_sub, after_mul, after_div, after_halt, after_rsvd1001,
      after_rsvd101x, after_rsvd11xx]

/-- The counters no execute step touches (R30). -/
theorem after_counters (i : Instr) (s : State) :
    (after i s).ctr.cycles = s.ctr.cycles ∧ (after i s).ctr.instructions = s.ctr.instructions ∧
    (after i s).ctr.hazardStalls = s.ctr.hazardStalls ∧ (after i s).ctr.forwards = s.ctr.forwards := by
  cases i with
  | load r a =>
    rw [after_load]
    rcases dataRead_cases (setMar s a) a with ⟨_, e⟩ | ⟨_, _, e⟩ | ⟨_, _, e⟩ <;> rw [e] <;> simp [finishLoad]
  | store r a =>
    rw [after_store]
    rcases dataWrite_cases (setMdr (setMar s a) (readReg s r)) a (readReg s r) with ⟨_, e⟩ | ⟨_, _, e⟩ | ⟨_, _, e⟩ <;>
      rw [e] <;> simp
  | _ =>
    simp [after_nop, after_add, after_sub, after_mul, after_div, after_jmp, after_halt, after_rsvd1001,
      after_rsvd101x, after_rsvd11xx]

/-- The stall an execute step returns, and the miss it counts with it (R53, R113). -/
theorem after_stall_cases (i : Instr) (s : State) :
    ((after i s).out.stall = 0#3 ∧ (after i s).ctr.cacheMisses = s.ctr.cacheMisses ∧
      (after i s).ctr.cacheStallCycles = s.ctr.cacheStallCycles) ∨
    ((after i s).out.stall = 4#3 ∧ (after i s).ctr.cacheMisses = s.ctr.cacheMisses + 1 ∧
      (after i s).ctr.cacheStallCycles = s.ctr.cacheStallCycles + 4 ∧ (after i s).pr.valid = s.pr.valid ∧
      (after i s).halted = s.halted) := by
  cases i with
  | load r a =>
    rw [after_load]
    rcases dataRead_cases (setMar s a) a with ⟨_, e⟩ | ⟨_, _, e⟩ | ⟨_, _, e⟩ <;> rw [e] <;> simp [finishLoad, missStall]
  | store r a =>
    rw [after_store]
    rcases dataWrite_cases (setMdr (setMar s a) (readReg s r)) a (readReg s r) with ⟨_, e⟩ | ⟨_, _, e⟩ | ⟨_, _, e⟩ <;>
      rw [e] <;> simp [missStall]
  | _ =>
    simp [after_nop, after_add, after_sub, after_mul, after_div, after_jmp, after_halt, after_rsvd1001,
      after_rsvd101x, after_rsvd11xx]

/-- The counters steps 3 to 6 leave alone. -/
theorem finishCycle_counters (s : State) :
    (finishCycle s).ctr.cycles = s.ctr.cycles ∧ (finishCycle s).ctr.instructions = s.ctr.instructions ∧
    (finishCycle s).ctr.flushes = s.ctr.flushes ∧ (finishCycle s).ctr.cacheHits = s.ctr.cacheHits ∧
    (finishCycle s).ctr.cacheMisses = s.ctr.cacheMisses ∧
    (finishCycle s).ctr.cacheStallCycles = s.ctr.cacheStallCycles := by
  have hadv : ∀ (s : State) (w : Word), (advance s w).ctr = s.ctr := by
    intro s w
    cases h : s.out.stalled <;> simp [advance, h]
  rcases finishCycle_cases s with ⟨_, e⟩ | ⟨_, _, e⟩ | ⟨_, _, e⟩ <;> rw [e]
  · simp
  · simp
  · simp only [fetchSteps]
    split
    · simp
    · rename_i w _
      rw [hadv]
      rcases resolveHazard_cases s w with ⟨_, e⟩ | ⟨_, _, _, e⟩ | ⟨_, _, e⟩ <;> simp [e]

/-- The countdown after steps 3 to 6 (R133). -/
theorem finishCycle_countdown (s : State) :
    (finishCycle s).cacheStallRemaining = if s.out.stall = 0#3 then s.cacheStallRemaining else s.out.stall := by
  have hadv : ∀ (s : State) (w : Word), (advance s w).cacheStallRemaining = s.cacheStallRemaining := by
    intro s w
    cases h : s.out.stalled <;> simp [advance, h]
  rcases finishCycle_cases s with ⟨h, e⟩ | ⟨h, _, e⟩ | ⟨h, _, e⟩ <;> rw [e]
  · simp [h]
  · simp [h]
  · simp only [h, if_true, fetchSteps]
    split
    · simp
    · rename_i w _
      rw [hadv]
      rcases resolveHazard_cases s w with ⟨_, e⟩ | ⟨_, _, _, e⟩ | ⟨_, _, e⟩ <;> simp [e]

end Sys2Proof.Laws
end

