-- ==== Sys2Proof/Laws/PerInstr.lean ====
section
/-! SUPPORT. What is proved of every instruction, one lemma a constructor: the three fields of the encoded word
are the instruction's own (spec 30_encoding.md R71). -/

namespace Sys2Proof.Laws

open Sys2Proof

/-! ## The slices of a word as numbers (R71) -/

theorem opcodeOf_toNat (w : Word) : (opcodeOf w).toNat = w.toNat / 4096 := by
  have := w.isLt
  simp only [opcodeOf, BitVec.extractLsb'_toNat, Nat.shiftRight_eq_div_pow]
  omega

theorem operandOf_toNat (w : Word) : (operandOf w).toNat = w.toNat / 256 % 16 := by
  simp only [operandOf, BitVec.extractLsb'_toNat, Nat.shiftRight_eq_div_pow]

theorem immOf_toNat (w : Word) : (immOf w).toNat = w.toNat % 256 := by
  simp only [immOf, BitVec.extractLsb'_toNat, Nat.shiftRight_eq_div_pow]
  omega

/-- Three fields put together, as a number (R71). -/
theorem fields_toNat (o r : Sel) (m : Byte) :
    (o ++ r ++ m : Word).toNat = o.toNat * 4096 + r.toNat * 256 + m.toNat := by
  have hr := r.isLt
  have hm := m.isLt
  have h1 : (o ++ r ++ m : Word).toNat = (o ++ r).toNat <<< 8 ||| m.toNat := BitVec.toNat_append (o ++ r) m
  have h2 : (o ++ r).toNat = o.toNat <<< 4 ||| r.toNat := BitVec.toNat_append o r
  rw [h1, ← Nat.shiftLeft_add_eq_or_of_lt hm, h2, ← Nat.shiftLeft_add_eq_or_of_lt hr, Nat.shiftLeft_eq,
    Nat.shiftLeft_eq]
  omega

theorem opcodeOf_append (o r : Sel) (m : Byte) : opcodeOf (o ++ r ++ m) = o := by
  apply BitVec.eq_of_toNat_eq
  rw [opcodeOf_toNat, fields_toNat]
  have := r.isLt; have := m.isLt; omega

theorem operandOf_append (o r : Sel) (m : Byte) : operandOf (o ++ r ++ m) = r := by
  apply BitVec.eq_of_toNat_eq
  rw [operandOf_toNat, fields_toNat]
  have := r.isLt; have := m.isLt; omega

theorem immOf_append (o r : Sel) (m : Byte) : immOf (o ++ r ++ m) = m := by
  apply BitVec.eq_of_toNat_eq
  rw [immOf_toNat, fields_toNat]
  have := m.isLt; omega

/-! ## The family -/

/-- The fields of the encoded word are the instruction's (R71). -/
def EncodedFields.Statement (i : Instr) : Prop :=
  opcodeOf (encode i) = i.opcode ∧ operandOf (encode i) = i.operand ∧ immOf (encode i) = i.imm

theorem encodedFields (i : Instr) : EncodedFields.Statement i :=
  ⟨opcodeOf_append _ _ _, operandOf_append _ _ _, immOf_append _ _ _⟩

theorem EncodedFields.nop (operand : Sel) (imm : Byte) : EncodedFields.Statement (.nop operand imm) := encodedFields _
theorem EncodedFields.load (r : Sel) (addr : Addr) : EncodedFields.Statement (.load r addr) := encodedFields _
theorem EncodedFields.store (r : Sel) (addr : Addr) : EncodedFields.Statement (.store r addr) := encodedFields _
theorem EncodedFields.add (r : Sel) (imm : Byte) : EncodedFields.Statement (.add r imm) := encodedFields _
theorem EncodedFields.sub (r : Sel) (imm : Byte) : EncodedFields.Statement (.sub r imm) := encodedFields _
theorem EncodedFields.mul (r : Sel) (imm : Byte) : EncodedFields.Statement (.mul r imm) := encodedFields _
theorem EncodedFields.div (r : Sel) (imm : Byte) : EncodedFields.Statement (.div r imm) := encodedFields _
theorem EncodedFields.jmp (operand : Sel) (target : Addr) : EncodedFields.Statement (.jmp operand target) := encodedFields _
theorem EncodedFields.halt (operand : Sel) (imm : Byte) : EncodedFields.Statement (.halt operand imm) := encodedFields _
theorem EncodedFields.rsvd1001 (operand : Sel) (imm : Byte) :
    EncodedFields.Statement (.rsvd1001 operand imm) := encodedFields _
theorem EncodedFields.rsvd101x (x : BitVec 1) (operand : Sel) (imm : Byte) :
    EncodedFields.Statement (.rsvd101x x operand imm) := encodedFields _
theorem EncodedFields.rsvd11xx (xx : BitVec 2) (operand : Sel) (imm : Byte) :
    EncodedFields.Statement (.rsvd11xx xx operand imm) := encodedFields _

end Sys2Proof.Laws
end

