-- ==== Sys2Proof/Tests/Slice0.lean ====
section
/-! SUPPORT. The model's own tests: expected results are those of spec/95_test_vectors.md (the vector is named), and for
every obligation with hypotheses a state and operands that meet them. -/

namespace Sys2Proof.Tests

open Sys2Proof Sys2Proof.Machine

/-! ## Helpers -/

/-- The state an outcome goes on with. -/
def nextOf (o : Host.Outcome State Fault Refusal) : State :=
  match o with
  | .next t => t
  | .fault _ => State.reset
  | .refused _ => State.reset

/-- Reset in the configuration (forwarding, cache) with an image. -/
def on (f c : Bool) (image : Memory := []) : State := State.resetWith f c image Params.default

/-- A register set beforehand. -/
def withReg (s : State) (r : Sel) (v : Byte) : State := writeReg s r v

/-- Two registers set beforehand: `x[r]` and the one after it. -/
def withPair (r : Sel) (a b : Byte) : State := withReg (withReg (on false false) (r + 1) b) r a

/-- The execute step of a word. -/
def ran (s : State) (w : Word) : State := nextOf (exec (decode w) s)

/-- The word placed at `pc`, ready to execute. -/
def ready (s : State) (w : Nat) : State := s.withFetchWord 16 w

/-- One step that executes the word. -/
def stepped (s : State) (w : Nat) : State := nextOf (step (ready s w))

/-- `pc` set beforehand. -/
def atPc (s : State) (p : PcWord) : State := { s with pc := p }

/-- Cell 0x80 holds 5. -/
def five : Memory := [(0x100, 5)]

/-! ## WellFormed: each check refuses an ill-formed term -/

theorem test_wf_refuses_wrong_second_register : (Asm.alu .add (.r 1) (some (.r 3))).wellFormed = false := by decide
theorem test_wf_accepts_second_register_wrap : (Asm.alu .add (.r 15) (some (.r 0))).wellFormed = true := by decide
theorem test_wf_refuses_register_16 : (Asm.load (.r 16) 0).wellFormed = false := by decide
theorem test_wf_refuses_alu_register_16 : (Asm.alu .mul (.r 16) none).wellFormed = false := by decide
theorem test_wf_refuses_address_256 : (Asm.jmp 256).wellFormed = false := by decide
theorem test_wf_refuses_store_address_256 : (Asm.store (.r 1) 256).wellFormed = false := by decide
theorem test_wf_refuses_acc : (Asm.store .acc 0x82).wellFormed = false := by decide
theorem test_wf_refuses_jz : (Asm.unknown ['J', 'Z']).wellFormed = false := by decide
theorem test_canonical_refuses_operand : (Instr.jmp 1 4).canonical = false := by decide
theorem test_canonical_refuses_immediate : (Instr.div 1 0xAB).canonical = false := by decide
theorem test_canonical_refuses_reserved : (Instr.rsvd1001 0 0).canonical = false := by decide

/-! ## Decoding: V-E's words, and words written from the rows of R73 -/

theorem test_decode_nop : decodeTableWord 16 0x0005 = some (.nop 0 5) := by decide
theorem test_decode_load : decodeTableWord 16 0b0001_1111_10000001 = some (.load 15 0x81) := by decide
theorem test_decode_store : decodeTableWord 16 0x2490 = some (.store 4 0x90) := by decide
theorem test_decode_add : decodeTableWord 16 0b0011_1111_00000000 = some (.add 15 0) := by decide
theorem test_decode_sub : decodeTableWord 16 0x4300 = some (.sub 3 0) := by decide
theorem test_decode_mul : decodeTableWord 16 0x5100 = some (.mul 1 0) := by decide
theorem test_decode_div : decodeTableWord 16 0x61AB = some (.div 1 0xAB) := by decide
theorem test_decode_jmp : decodeTableWord 16 0b0111_0001_00000100 = some (.jmp 1 4) := by decide
theorem test_decode_halt : decodeTableWord 16 0x8FFF = some (.halt 15 0xFF) := by decide
theorem test_decode_rsvd1001 : decodeTableWord 16 0x9000 = some (.rsvd1001 0 0) := by decide
theorem test_decode_rsvd101x : decodeTableWord 16 0b1011_0010_00110100 = some (.rsvd101x 1 2 0x34) := by decide
theorem test_decode_rsvd11xx : decodeTableWord 16 0xF123 = some (.rsvd11xx 3 1 0x23) := by decide
theorem test_encode_store : encode (.store 4 0x90) = 0x2490 := by decide
theorem test_encode_rsvd : encode (.rsvd11xx 3 1 0x23) = 0xF123 := by decide
theorem test_decode_refuses_one_byte : decodeBytes [0x80] = .error .truncated := rfl

/-! ## Assembler and loader (R77, R78, R192; T10) -/

theorem test_assemble_load : assembleListing "LOAD R1,0x80;LOAD R1,[0x81]".toList = [some 0x1180, some 0x1181] := by
  decide
theorem test_assemble_alu : assembleListing "ADD R1,R2; SUB R3,R4;HLT".toList = [some 0x3100, some 0x4300, some 0x8000] := by
  decide
theorem test_assemble_refuses : assembleListing "ADD R1,R3;STORE ACC,0x82;JZ 0x00".toList = [none, none, none] := by
  decide
/-- T10, program P1: the document's listing. -/
theorem test_assemble_scenario :
    assembleListing "LOAD R1,0x80; LOAD R2,0x81; ADD R1,R2; STORE ACC,0x82; JMP 0x06; SUB R3,R4; HLT".toList =
      [some 0x1180, some 0x1281, some 0x3100, some 0x2182, some 0x7006, some 0x4300, some 0x8000] := by decide

/-- `ACC` is no register name where no ADD stands before it, and none in a LOAD. -/
theorem test_assemble_refuses_acc :
    assembleListing "STORE ACC,0x82;ADD R1,R2;LOAD ACC,0x82;STORE ACC,0x82;ADD R0,R1;STORE ACC,0x82".toList =
      [none, some 0x3100, none, none, some 0x3000, none] := by decide

/-- The spellings assumption log 16 chooses, and two texts it refuses. -/
theorem test_assemble_chosen_spellings :
    assembleListing "JMP [0x06];LOAD R01, [ 0x0080 ];JMP [06];".toList = [some 0x7006, some 0x1180, none, none] := by
  decide
theorem test_image_last_record_wins :
    cellAt (imageOf [byteRecord 0x80 5, instrRecord 0x80 (.jmp 0 6)]) 0x80 = 0x7006 := by decide
theorem test_image_malformed_field_is_zero : cellAt (imageOf [⟨3, 0x70, none⟩]) 3 = 0x7000 := by decide

/-! ## One step of each instruction -/

/-- V-X: the execute step of a NOP changes nothing; the step that runs it counts it. -/
theorem test_nop : ran (on false false five) 0x0005 = on false false five ∧
    (stepped (on false false five) 0x0005).ctr = { Counters.zero with cycles := 1, instructions := 1 } := by decide

/-- V-X: the reserved word 0xF123 is counted and raises nothing. -/
theorem test_rsvd_counted :
    ((stepped (on false false) 0xF123).ctr.instructions, (stepped (on false false) 0xF123).fault) = (1, none) := by
  decide

/-- V-M: LOAD R1,0x80. -/
theorem test_load :
    (let t := stepped (on false false five) 0x1180
     (readReg t 1, t.mar, t.mdr)) = (5, 0x80, 5) := by decide

/-- V-M: LOAD R0,0x80 shows the byte and writes no register. -/
theorem test_load_r0 :
    (let t := ran (on false false [(0x100, 0x0F)]) 0x1080
     (readReg t 0, t.mdr, t.pr.resultValue, t.out.r0WriteIgnored)) = (0, 0x0F, 0x0F, true) := by decide

/-- V-M: STORE R1,0x03 keeps the opcode and operand byte of the cell. -/
theorem test_store :
    (let t := ran (withReg (on false false (placeCell [] 3 0x7003)) 1 5) 0x2103
     (cellAt t.mem 3, t.mar, t.mdr)) = (0x7005, 3, 5) := by decide

/-- V-C1, steps 5 and 6: a write miss, then a write hit. -/
theorem test_store_miss_then_hit :
    (let t := ran (withReg (on false true) 1 0x33) 0x2181
     let u := ran (withReg t 1 0x44) 0x2181
     (t.out.stall, lineAt t 1, u.out.stall, lineAt u 1, memRead u.mem 0x81)) =
      (4, ⟨true, 16, 0x33⟩, 0, ⟨true, 16, 0x44⟩, 0x44) := by decide

/-- V-A: ADD 0x17, 0x29: the high nibbles are dropped. -/
theorem test_add :
    (let t := ran (withPair 1 0x17 0x29) 0x3100
     (readReg t 1, t.z, t.c)) = (0, true, true) := by decide

/-- V-A: ADD R0 with x[1] = 0x0F. -/
theorem test_add_r0 :
    (let t := ran (withPair 0 0 0x0F) 0x3000
     (readReg t 0, t.pr.resultValue, t.z, t.c, t.out.r0WriteIgnored)) = (0, 0x0F, false, false, true) := by decide

/-- V-A: SUB 3 - 5, SUB_CARRY = carry_out. -/
theorem test_sub :
    (let t := ran (withPair 3 3 5) 0x4300
     (readReg t 3, t.z, t.c)) = (0x0E, false, false) := by decide

/-- V-A: SUB 3 - 5, SUB_CARRY = borrow. -/
theorem test_sub_borrow :
    (ran { withPair 3 3 5 with params := ⟨.borrow, 1000⟩ } 0x4300).c = true := by decide

/-- V-A: MUL (-8) * 7. -/
theorem test_mul : readReg (ran (withPair 1 0x08 0x07) 0x5100) 1 = 0xC8 := by decide

/-- V-A: MUL R15 multiplies by x[0]; the flags keep their value. -/
theorem test_mul_r15 :
    (let t := ran { withReg (on false false) 15 0x07 with c := true } 0x5F00
     (readReg t 15, t.c)) = (0, true) := by decide

/-- V-A: DIV (-7) / 2. -/
theorem test_div : readReg (ran (withPair 1 0x09 0x02) 0x6100) 1 = 0x0D := by decide

/-- V-A: DIV (-8) / (-1) wraps, and a division by zero gives 0. -/
theorem test_div_corners :
    (readReg (ran (withPair 1 0x08 0x0F) 0x61AB) 1, readReg (ran (withPair 1 0x05 0x00) 0x6100) 1) = (8, 0) := by decide

/-- V-X: JMP at cell 0 to itself. -/
theorem test_jmp :
    (let t := stepped (on false false) 0x7000
     (t.pc, t.pr.pc, t.ctr.flushes, t.out.flushed, t.pr.valid)) = (1, 0, 1, true, true) := by decide

/-- V-X: HALT from cell 6. -/
theorem test_halt :
    (let t := stepped (atPc (on false false) 6) 0x8000
     (t.halted, t.pr, t.pc, terminated t)) = (true, PipeReg.empty, 7, true) := by decide

/-- V-H: the implicit second source, the wrap to register 0, and no hazard. -/
theorem test_needs : (needs 0x3100 2, needs 0x3F00 0, needs 0x2182 2, needs 0x7104 1) = (true, true, false, true) := by
  decide

/-! ## Witnesses of the statements' hypotheses -/

/-- A next state, as a step or an execute step gives it. -/
def Goes (s : State) : Prop := step s = .next (nextOf (step s))

theorem witness_table_row : opcodeTable[11]? = some ⟨"RSVD", 0xC000, 0xC000⟩ ∧
    TableRow.matchesWord ⟨"RSVD", 0xC000, 0xC000⟩ 0xF123 = true := by decide

theorem witness_assembler : assemble (.alu .add (.r 15) (some (.r 0))) = some (.add 15 0) ∧
    assembleWord (.load (.r 15) 255) = some 0x1FFF := by decide

/-- The two senses of the borrow, and the two kinds of divisor. -/
theorem witness_alu_clauses :
    (withPair 1 3 5).params.subCarry = .carryOut ∧
    ({ withPair 1 3 5 with params := ⟨.borrow, 1000⟩ } : State).params.subCarry = .borrow ∧
    nibbleInt (readReg (withPair 1 3 0) (nextSel 1)) = 0 ∧ nibbleInt (readReg (withPair 15 3 0) (nextSel 15)) = 0 ∧
    nibbleInt (readReg (withPair 1 8 15) (nextSel 1)) = -1 := by decide

/-- Both ends of the ranges of R98. -/
theorem witness_small_operands :
    (readReg (withPair 1 15 15) 1).toNat = 15 ∧ (readReg (withPair 1 15 15) (nextSel 1)).toNat = 15 ∧
    (readReg (withPair 1 7 7) 1).toNat = 7 ∧ (readReg (withPair 1 7 7) (nextSel 1)).toNat = 7 ∧
    (readReg (withPair 1 0 0) (nextSel 1)).toNat = 0 := by decide

/-- A state whose cache holds address 0x80. -/
def warm : State := { ran (on true true five) 0x1180 with cacheStallRemaining := 0#3 }

theorem witness_hit_and_miss :
    warm.cacheEn = true ∧ cacheHit warm 0x80 = true ∧ cacheHit warm 0x88 = false ∧ cacheHit warm 0xFF = false ∧
    (on true false).cacheEn = false := by decide

theorem witness_coherent : Coherent warm ∧ CacheIdle (on true false) ∧ Coherent (on true false) := by
  unfold Coherent CacheIdle; decide

theorem witness_same_index : cacheIndex 0x88 = cacheIndex 0x80 ∧ (0x88 : Addr) ≠ 0x80 := by decide

theorem witness_exec (i : Instr) : exec i warm = .next (Laws.after i warm) := Laws.exec_eq i warm

theorem witness_executing_nop :
    executing (ready (on true true) 0x0FFF) = true ∧ (ready (on true true) 0x0FFF).pr.instr = .nop 15 255 := by decide

theorem witness_reserved :
    IsReserved (.rsvd1001 0 0) ∧ IsReserved (.rsvd101x 1 2 3) ∧ IsReserved (.rsvd11xx 3 15 255) ∧
    executing (ready (on true false) 0x9000) = true ∧ (ready (on true false) 0x9000).pr.instr = .rsvd1001 0 0 ∧
    9 ≤ (0x9000 : Word).toNat / 4096 ∧ 9 ≤ (0xFFFF : Word).toNat / 4096 :=
  ⟨.inl ⟨_, _, rfl⟩, .inr (.inl ⟨_, _, _, rfl⟩), .inr (.inr ⟨_, _, _, rfl⟩), by decide⟩

/-- At the first cell and at the last. -/
theorem witness_fetched :
    (∀ p : PcWord, p = 0 ∨ p = 255 → running (atPc (on true false) p) = true ∧
      (atPc (on true false) p).cacheStallRemaining = 0#3 ∧ (atPc (on true false) p).pr.valid = false ∧
      (atPc (on true false) p).halted = false ∧ (atPc (on true false) p).pc.toNat < 256 ∧
      (atPc (on true false) p).ctr.cycles + 1 < (atPc (on true false) p).params.maxCycles ∧
      decode (cellAt (atPc (on true false) p).mem ((atPc (on true false) p).pc.setWidth 8)) = .nop 0 0) := by decide

/-- A LOAD that has just missed. -/
def missed : State := nextOf (step (ready (on true true five) 0x1180))

theorem witness_gate : running missed = true ∧ missed.cacheStallRemaining = 4#3 ∧
    missed.ctr.cycles + 4 ≤ missed.params.maxCycles := by decide

/-- A LOAD and a STORE that miss; in the last cell; and with the machine halted. -/
theorem witness_miss :
    (∀ s, s = ready (on true true five) 0x1180 ∨ s = ready (atPc (on true true five) 255) 0x1180 ∨
        s = { ready (on true true five) 0x1180 with halted := true } →
      executing s = true ∧ s.pr.instr = .load 1 0x80 ∧ s.cacheEn = true ∧ cacheHit s 0x80 = false ∧
      s.ctr.cycles + 6 ≤ s.params.maxCycles) ∧
    (∀ s, s = ready (on true true five) 0x2180 ∨ s = ready (atPc (on true true five) 255) 0x2180 →
      executing s = true ∧ s.pr.instr = .store 1 0x80 ∧ s.cacheEn = true ∧ cacheHit s 0x80 = false ∧
      s.ctr.cycles + 6 ≤ s.params.maxCycles) ∧
    (ready (on true true five) 0x1180).halted = false ∧ (ready (on true true five) 0x1180).pc = 1#9 ∧
    (ready (atPc (on true true five) 255) 0x1180).pc = 256#9 ∧
    (ready (atPc (on true true five) 255) 0x2180).halted = false ∧ (0x1 : Sel) ≠ 0#4 := by
  refine ⟨?_, ?_, by decide⟩
  · rintro s (rfl | rfl | rfl) <;> decide
  · rintro s (rfl | rfl) <;> decide

/-- What the word after a miss may be: not needing the register, or needing it, with forwarding and without. -/
theorem witness_miss_resumes :
    (∀ s, s = ready (on true true five) 0x1180 ∨ s = ready (on true true five) 0x2180 ∨
        s = ready (on false true five) 0x1180 → PrConsistent s) ∧
    (ready (on false true five) 0x1180).fwdEn = false ∧ (ready (on true true five) 0x1180).fwdEn = true ∧
    needs 0x0000 1 = false ∧ needs 0x3100 1 = true := by
  unfold PrConsistent
  refine ⟨?_, by decide⟩
  rintro s (rfl | rfl | rfl) <;> decide

/-- LOAD R2,0x81 in PR, ADD R1,R2 next (T10), with forwarding and without, with the cache off and on (a miss). -/
def loadUse (f c : Bool) : State := ready (on f c (placeCell [] 1 0x3100)) 0x1281

/-- The same with address 0x81 in the cache. -/
def loadUseHit (f : Bool) : State :=
  { loadUse f true with lines := (fillLine (loadUse f true) 0x81 7).lines }

theorem witness_load_use :
    ∀ f : Bool, ∀ s, s = loadUse f false ∨ s = loadUse f true ∨ s = loadUseHit f →
      executing s = true ∧ PrConsistent s ∧ s.pr.instr = .load 2 0x81 ∧ s.halted = false ∧ s.pc.toNat < 256 ∧
      s.ctr.cycles + 7 ≤ s.params.maxCycles ∧ cellAt s.mem (s.pc.setWidth 8) = 0x3100 ∧ needs 0x3100 2 = true ∧
      s.fwdEn = f := by
  unfold PrConsistent
  rintro f s (rfl | rfl | rfl) <;> revert f <;> decide

theorem witness_load_use_cases :
    ∀ f : Bool, (loadUse f false).cacheEn = false ∧ (loadUse f true).cacheEn = true ∧
      cacheHit (loadUse f true) 0x81 = false ∧ (loadUseHit f).cacheEn = true ∧ cacheHit (loadUseHit f) 0x81 = true := by
  decide

theorem witness_jump : executing (ready (on true true) 0x7FFF) = true ∧ (ready (on true true) 0x7FFF).halted = false ∧
    (ready (on true true) 0x7FFF).pr.instr = .jmp 15 255 := by decide

/-- HALT in the last cell. -/
theorem witness_halt :
    executing (ready (atPc (on true true) 255) 0x8000) = true ∧
    (ready (atPc (on true true) 255) 0x8000).pr.instr = .halt 0 0 ∧
    (ready (atPc (on true true) 255) 0x8000).pc = 256#9 := by decide

/-- STORE R1,0x01 from cell 0. -/
theorem witness_store_next :
    executing (ready (on true false) 0x2101) = true ∧ (ready (on true false) 0x2101).pr.instr = .store 1 1 ∧
    (ready (on true false) 0x2101).cacheEn = false ∧ (ready (on true false) 0x2101).halted = false ∧
    (ready (on true false) 0x2101).pc = (1 : Addr).setWidth 9 ∧ PrConsistent (ready (on true false) 0x2101) := by
  unfold PrConsistent; decide

/-- `pc = 256` with nothing to execute; with a NOP, an ADD and a STORE (cache off) in the last cell; and with the cache
on, an ADD there and a LOAD that hits. -/
theorem witness_past_the_end :
    (∀ s, s = atPc (on true false) 256 ∨ s = ready (atPc (on true false) 255) 0x0000 ∨
        s = ready (atPc (on true false) 255) 0x2180 ∨ s = ready (atPc (on true true) 255) 0x3100 ∨
        s = ready (atPc warm 255) 0x1180 →
      running s = true ∧ s.cacheStallRemaining = 0#3 ∧ s.pc.toNat = 256 ∧ s.halted = false) ∧
    toExecute (atPc (on true false) 256) = false ∧
    (∀ s i, (s, i) = (ready (atPc (on true false) 255) 0x0000, Instr.nop 0 0) ∨
        (s, i) = (ready (atPc (on true false) 255) 0x2180, Instr.store 1 0x80) ∨
        (s, i) = (ready (atPc (on true true) 255) 0x3100, Instr.add 1 0) ∨
        (s, i) = (ready (atPc warm 255) 0x1180, Instr.load 1 0x80) →
      toExecute s = true ∧ s.pr.instr = i) ∧
    (ready (atPc (on true true) 255) 0x3100).cacheEn = true ∧
    (ready (atPc (on true false) 255) 0x2180).cacheEn = false ∧
    (ready (atPc warm 255) 0x1180).cacheEn = true ∧ cacheHit (ready (atPc warm 255) 0x1180) 0x80 = true := by
  refine ⟨?_, by decide, ?_, by decide⟩
  · rintro s (rfl | rfl | rfl | rfl | rfl) <;> decide
  · rintro s i (h | h | h | h) <;> obtain ⟨rfl, rfl⟩ := Prod.mk.inj h <;> decide

/-- Terminated, faulted, and at the cap. -/
theorem witness_ended :
    stuck (stepped (on true true) 0x8000) = true ∧ stuck (raise (.outOfBounds .fetch 256) (on true true)) = true ∧
    stuck (State.resetWith true true [] ⟨.carryOut, 0⟩) = false ∧
    (State.resetWith true true [] ⟨.carryOut, 0⟩).params.maxCycles ≤
      (State.resetWith true true [] ⟨.carryOut, 0⟩).ctr.cycles := by decide

/-- `pc` kept (a miss), advanced, and set by a JMP. -/
theorem witness_pc_moves :
    Goes (ready (on true true) 0x1180) ∧ Goes (on true true) ∧ Goes (ready (on true true) 0x7009) ∧
    (stepped (on true true) 0x1180).pc = (ready (on true true) 0x1180).pc ∧
    (nextOf (step (on true true))).pc = (on true true).pc + 1#9 ∧ (stepped (on true true) 0x7009).pc = 10 :=
  ⟨rfl, rfl, rfl, by decide⟩

/-- Steps that change a flag (ADD and SUB), a register (each writer), memory, `mar`, and `halted`. -/
theorem witness_changes :
    Goes (ready (on true true) 0x3100) ∧ Goes (ready (on true true) 0x4100) ∧
    Goes (ready (on true false five) 0x1180) ∧ Goes (ready (withPair 1 1 3) 0x3100) ∧
    Goes (ready (withPair 1 1 3) 0x4100) ∧ Goes (ready (withPair 1 1 3) 0x5100) ∧ Goes (ready (withPair 1 1 3) 0x6100) ∧
    Goes (ready (withPair 1 1 3) 0x2180) ∧ Goes (ready (on true true) 0x8000) :=
  ⟨rfl, rfl, rfl, rfl, rfl, rfl, rfl, rfl, rfl⟩

theorem witness_changes_differ :
    (stepped (on true true) 0x3100).z ≠ (ready (on true true) 0x3100).z ∧
    (stepped (on true true) 0x4100).z ≠ (ready (on true true) 0x4100).z ∧
    readReg (stepped (on true false five) 0x1180) 1 ≠ readReg (ready (on true false five) 0x1180) 1 ∧
    (∀ w ∈ [0x3100, 0x4100, 0x5100, 0x6100],
      readReg (stepped (withPair 1 1 3) w) 1 ≠ readReg (ready (withPair 1 1 3) w) 1) ∧
    Memory.readKey (stepped (withPair 1 1 3) 0x2180).mem (dataKey 0x80) ≠
      Memory.readKey (ready (withPair 1 1 3) 0x2180).mem (dataKey 0x80) ∧
    (stepped (withPair 1 1 3) 0x2180).mar ≠ (ready (withPair 1 1 3) 0x2180).mar ∧
    (stepped (on true true) 0x8000).halted ≠ (ready (on true true) 0x8000).halted := by decide

theorem witness_frames_broken :
    ¬ FlagsKept (ready (on true true) 0x3100) (stepped (on true true) 0x3100) ∧
    ¬ FlagsKept (ready (on true true) 0x4100) (stepped (on true true) 0x4100) ∧
    ¬ AddressRegsKept (ready (on true false five) 0x1180) (stepped (on true false five) 0x1180) ∧
    ¬ AddressRegsKept (ready (withPair 1 1 3) 0x2180) (stepped (withPair 1 1 3) 0x2180) := by
  unfold FlagsKept AddressRegsKept; decide

/-- `warm` with another configuration, other counters and another `pc`. -/
def warmElsewhere : State := { warm with cacheEn := false, ctr := Counters.zero, pc := 9 }

/-- Two states that agree on what a program sees and differ elsewhere. -/
theorem witness_hidden_state :
    Coherent warm ∧ Coherent warmElsewhere ∧ warm.regs = warmElsewhere.regs ∧ warm.mem = warmElsewhere.mem ∧
    warm.z = warmElsewhere.z ∧ warm.c = warmElsewhere.c ∧
    warm.params.subCarry = warmElsewhere.params.subCarry ∧ warm ≠ warmElsewhere := by
  unfold Coherent; decide

theorem witness_caps : 0 < Params.default.maxCycles ∧ 1 < Params.default.maxCycles := by decide

/-- Records that fill a cell, and cells none fills; a record with an earlier one of its cell, no later one, and others
after it; a malformed field. -/
theorem witness_records :
    (∀ r ∈ [byteRecord 0x80 5, instrRecord 0 (.jmp 0 6)], r.addr ≠ 0xFF) ∧
    (∀ q ∈ [instrRecord 0 (.jmp 0 6), byteRecord 0xFF 9], q.addr ≠ (byteRecord 0x80 5).addr) ∧
    cellAt (imageOf ([byteRecord 0x80 4] ++ byteRecord 0x80 5 :: [instrRecord 0 (.jmp 0 6), byteRecord 0xFF 9])) 0x80 =
      0x0005 ∧
    (⟨3, 0x70, none⟩ : LoaderRecord).field = none := by decide

/-- The invariants hold together in a state that is not the reset state, and it steps. -/
theorem witness_invariants :
    (Memory.wf (ready warm 0x2180).mem = true ∧ PcInRange (ready warm 0x2180) ∧ MissAccounting (ready warm 0x2180) ∧
      StallInRange (ready warm 0x2180) ∧ PrConsistent (ready warm 0x2180) ∧ FlowInv (ready warm 0x2180)) ∧
    Goes (ready warm 0x2180) ∧ executing (ready warm 0x2180) = true ∧ executing (on true true) = false := by
  refine ⟨?_, rfl, by decide, by decide⟩
  unfold PcInRange MissAccounting StallInRange PrConsistent FlowInv Coherent CacheIdle PcFollowsPr HaltedDrained
    LatchedFromMemory
  decide

theorem witness_counts : Counters.zero.instructions = 0 ∧ (stepped (on true true) 0x0000).ctr.instructions ≠ 0 := by
  decide

/-- A program that is one HALT terminates in two steps in every configuration. -/
theorem witness_terminated_run :
    ∀ f c : Bool, terminated (nextOf (stepN 2 (on f c (placeCell [] 0 0x8000)))) = true := by decide

theorem witness_terminated_run_goes (f c : Bool) :
    stepN 2 (on f c (placeCell [] 0 0x8000)) = .next (nextOf (stepN 2 (on f c (placeCell [] 0 0x8000)))) := by
  cases f <;> cases c <;> rfl

/-- The two other ends of a run: a fetch past the end, and the cap. -/
theorem witness_other_ends :
    (nextOf (stepN 3 (on true true (placeCell [] 0 0x70FF)))).fault = some (.outOfBounds .fetch 256) ∧
    (nextOf (run true true [] ⟨.carryOut, 1⟩)).fault = some (.nonTermination 1) := by decide

/-- V-S, and the event data of a step that latches (R160, R183). -/
theorem test_report : (cpi Counters.zero, totalStalls { Counters.zero with hazardStalls := 1, cacheStallCycles := 8 },
    cycleEvents (on true true) (nextOf (step (on true true)))) = (0, 9, [.fetch 0 0 "NOP"]) := by decide

theorem test_outputs : (outputs (raise (.nonTermination 7) (on true true))).fault = 2 := by decide

end Sys2Proof.Tests
end

/-! PROOFS. The performance counters (10_state.md R30, R31): the order in which no counter falls, which every procedure
of a cycle climbs, and the change of a state's counters, which every instruction commutes with. -/

namespace Sys2Proof.Proofs

open Sys2Proof Sys2Proof.Machine Sys2Proof.Laws

/-! ## No counter falls -/

/-- Each of the eight counters of `k` is at most that of `l`. -/
def CountersLe (k l : Counters) : Prop :=
  k.cycles ≤ l.cycles ∧ k.instructions ≤ l.instructions ∧ k.hazardStalls ≤ l.hazardStalls ∧
  k.cacheStallCycles ≤ l.cacheStallCycles ∧ k.flushes ≤ l.flushes ∧ k.forwards ≤ l.forwards ∧
  k.cacheHits ≤ l.cacheHits ∧ k.cacheMisses ≤ l.cacheMisses

@[refl] theorem CountersLe.refl (k : Counters) : CountersLe k k := by simp [CountersLe]

theorem CountersLe.trans {k l m : Counters} (hkl : CountersLe k l) (hlm : CountersLe l m) : CountersLe k m := by
  unfold CountersLe at *
  omega

/-! ### The updates that count -/

theorem countHit_counters_le (s : State) : CountersLe s.ctr (countHit s).ctr := by simp [CountersLe]

theorem countMiss_counters_le (s : State) : CountersLe s.ctr (countMiss s).ctr := by simp [CountersLe]

theorem jumpTo_counters_le (s : State) (a : Addr) : CountersLe s.ctr (jumpTo s a).ctr := by simp [CountersLe]

theorem beginCycle_counters_le (s : State) : CountersLe s.ctr (beginCycle s).ctr := by simp [CountersLe]

theorem retire_counters_le (s : State) : CountersLe s.ctr (retire s).ctr := by simp [CountersLe]

theorem recordForward_counters_le (s : State) (v : Byte) : CountersLe s.ctr (recordForward s v).ctr := by
  simp [CountersLe]

theorem insertBubble_counters_le (s : State) : CountersLe s.ctr (insertBubble s).ctr := by simp [CountersLe]

/-! ### The procedures of a cycle -/

theorem dataRead_counters_le (s : State) (a : Addr) : CountersLe s.ctr (dataRead s a).state.ctr := by
  rcases dataRead_cases s a with ⟨_, off⟩ | ⟨_, _, hit⟩ | ⟨_, _, miss⟩
  · rw [off]
  · rw [hit]; exact countHit_counters_le s
  · rw [miss]; exact countMiss_counters_le (fillLine s a _)

theorem dataWrite_counters_le (s : State) (a : Addr) (v : Byte) : CountersLe s.ctr (dataWrite s a v).state.ctr := by
  rcases dataWrite_cases s a v with ⟨_, off⟩ | ⟨_, _, hit⟩ | ⟨_, _, miss⟩
  · rw [off]; exact .refl _
  · rw [hit]; exact countHit_counters_le (setLine (storeByte s a v) _ _)
  · rw [miss]; exact countMiss_counters_le (fillLine (storeByte s a v) a v)

/-- An instruction counts an access or a flush, or nothing. -/
theorem after_counters_le (i : Instr) (s : State) : CountersLe s.ctr (after i s).ctr := by
  cases i with
  | load r a => exact dataRead_counters_le (setMar s a) a
  | store r a => exact dataWrite_counters_le (setMdr (setMar s a) (readReg s r)) a (readReg s r)
  | jmp o a => exact jumpTo_counters_le s a
  | _ => exact .refl _

theorem advance_ctr (s : State) (w : Word) : (advance s w).ctr = s.ctr := by
  cases h : s.out.stalled
  · rw [advance_going w h, latchNext_ctr]
  · rw [advance_stalled w h]

theorem resolveHazard_counters_le (s : State) (w : Word) : CountersLe s.ctr (resolveHazard s w).ctr := by
  rcases resolveHazard_cases s w with ⟨_, kept⟩ | ⟨v, _, _, forwarded⟩ | ⟨_, _, bubble⟩
  · rw [kept]
  · rw [forwarded]; exact recordForward_counters_le s v
  · rw [bubble]; exact insertBubble_counters_le s

theorem fetchSteps_counters_le (s : State) : CountersLe s.ctr (fetchSteps s).ctr := by
  unfold fetchSteps
  split
  · exact .refl _
  · rw [advance_ctr]; exact resolveHazard_counters_le s _

theorem finishCycle_counters_le (s : State) : CountersLe s.ctr (finishCycle s).ctr := by
  rcases finishCycle_cases s with ⟨_, stalled⟩ | ⟨_, _, drained⟩ | ⟨_, _, fetched⟩
  · rw [stalled]; exact .refl _
  · rw [drained]; exact .refl _
  · rw [fetched]; exact fetchSteps_counters_le s

/-- R31: no counter goes down in a step. -/
theorem step_counters_le {s t : State} (h : step s = .next t) : CountersLe s.ctr t.ctr := by
  have hbegin := beginCycle_counters_le s
  rcases step_cases h with ⟨_ended, rfl⟩ | ⟨_, _capped, rfl⟩ | ⟨_, _, _gated, rfl⟩ | ⟨_, _, _, _idle, rfl⟩ |
    ⟨_, _, _, _executes, rfl⟩
  · exact .refl _
  · exact .refl _
  · exact hbegin
  · exact hbegin.trans (finishCycle_counters_le _)
  · have hexec := after_counters_le s.pr.instr (clearReady (beginCycle s))
    exact ((hbegin.trans hexec).trans (retire_counters_le _)).trans (finishCycle_counters_le _)

/-! ## No instruction reads a counter -/

/-- The state with other counters. -/
def withCounters (k : Counters) (s : State) : State := { s with ctr := k }

theorem cacheHit_withCounters (k : Counters) (s : State) (a : Addr) :
    cacheHit (withCounters k s) a = cacheHit s a := rfl

/-- The data read of LOAD finds the same byte, hit and stall whatever the counters are. -/
theorem dataRead_withCounters (k : Counters) (s : State) (a : Addr) :
    ∃ l, dataRead (withCounters k s) a = { dataRead s a with state := withCounters l (dataRead s a).state } := by
  have hhit := cacheHit_withCounters k s a
  have hen : (withCounters k s).cacheEn = s.cacheEn := rfl
  rcases dataRead_cases s a with ⟨en, off⟩ | ⟨en, hits, hit⟩ | ⟨en, hits, miss⟩
  · exact ⟨k, by rw [off]; simp only [dataRead, hen, en]; rfl⟩
  · exact ⟨(countHit (withCounters k s)).ctr, by rw [hit]; simp only [dataRead, cacheRead, hen, en, hhit, hits]; rfl⟩
  · exact ⟨(countMiss (withCounters k s)).ctr, by rw [miss]; simp only [dataRead, cacheRead, hen, en, hhit, hits]; rfl⟩

/-- The data write of STORE finds the same hit and stall, and does the same to memory and cache. -/
theorem dataWrite_withCounters (k : Counters) (s : State) (a : Addr) (v : Byte) :
    ∃ l, dataWrite (withCounters k s) a v =
      { dataWrite s a v with state := withCounters l (dataWrite s a v).state } := by
  have hhit := cacheHit_withCounters k s a
  have hen : (withCounters k s).cacheEn = s.cacheEn := rfl
  rcases dataWrite_cases s a v with ⟨en, off⟩ | ⟨en, hits, hit⟩ | ⟨en, hits, miss⟩
  · exact ⟨k, by rw [off]; simp only [dataWrite, hen, en]; rfl⟩
  · exact ⟨(countHit (withCounters k s)).ctr, by rw [hit]; simp only [dataWrite, cacheWrite, hen, en, hhit, hits]; rfl⟩
  · exact ⟨(countMiss (withCounters k s)).ctr, by rw [miss]; simp only [dataWrite, cacheWrite, hen, en, hhit, hits]; rfl⟩

/-- R31: started with other counters, an instruction leaves the same state with other counters. -/
theorem after_withCounters (i : Instr) (k : Counters) (s : State) :
    ∃ l, after i (withCounters k s) = withCounters l (after i s) := by
  cases i with
  | load r a =>
    obtain ⟨l, hread⟩ := dataRead_withCounters k (setMar s a) a
    exact ⟨l, congrArg (finishLoad r) hread⟩
  | store r a =>
    obtain ⟨l, hwrite⟩ := dataWrite_withCounters k (setMdr (setMar s a) (readReg s r)) a (readReg s r)
    exact ⟨l, congrArg (fun acc : Access => returnStall acc.state acc.stall) hwrite⟩
  | jmp o a => exact ⟨(jumpTo (withCounters k s) a).ctr, rfl⟩
  | _ => exact ⟨k, rfl⟩

/-- Settles O44: the counters rise along every procedure of the cycle, and every instruction commutes with a change of
the counters. -/
theorem countersOnlyRiseAndAreNeverRead : Obligations.CountersOnlyRiseAndAreNeverRead := by
  refine ⟨fun _ _ => step_counters_le, ?_, raise_ctr⟩
  intro i s t k h
  obtain rfl : after i s = t := by simpa [exec_eq] using h
  obtain ⟨l, hl⟩ := after_withCounters i k s
  exact ⟨withCounters l (after i s), (exec_eq i _).trans (congrArg _ hl), rfl⟩

end Sys2Proof.Proofs

/-! PROOFS. The direct-mapped cache (20_memory.md R50 to R53): where an address lies in it, and what an access does to
it on a hit and on a miss. -/

namespace Sys2Proof.Proofs

open Sys2Proof Sys2Proof.Machine Sys2Proof.Laws

/-! ## Index, tag and lookup -/

theorem cacheIndex_toNat (a : Addr) : (cacheIndex a).toNat = a.toNat % 8 := by
  simp [cacheIndex, BitVec.extractLsb'_toNat]

theorem cacheTag_toNat (a : Addr) : (cacheTag a).toNat = a.toNat / 8 := by
  have := a.isLt
  simp only [cacheTag, BitVec.extractLsb'_toNat, Nat.shiftRight_eq_div_pow]
  omega

theorem cacheIndex_getLsbD (a : Addr) {k : Nat} (hk : k < 3) : (cacheIndex a).getLsbD k = a.getLsbD k := by
  simp [cacheIndex, hk]

theorem cacheTag_getLsbD (a : Addr) {k : Nat} (hk : k < 5) : (cacheTag a).getLsbD k = a.getLsbD (k + 3) := by
  simp [cacheTag, hk, Nat.add_comm]

/-- Two addresses collide exactly when their low three bits agree, whatever their tags. -/
theorem cacheIndex_eq_iff (a b : Addr) :
    cacheIndex a = cacheIndex b ↔ ∀ k < 3, a.getLsbD k = b.getLsbD k := by
  constructor
  · intro h k hk
    rw [← cacheIndex_getLsbD a hk, ← cacheIndex_getLsbD b hk, h]
  · intro h
    apply BitVec.eq_of_getLsbD_eq
    intro k hk
    rw [cacheIndex_getLsbD a hk, cacheIndex_getLsbD b hk, h k hk]

theorem cacheHit_iff (s : State) (a : Addr) :
    cacheHit s a = true ↔ (lineAt s (cacheIndex a)).valid = true ∧ (lineAt s (cacheIndex a)).tag = cacheTag a := by
  simp [cacheHit]

/-- Settles O16: the slices of the address read as numbers and as bits. -/
theorem cacheGeometry : Obligations.CacheGeometry := by
  intro a b s
  refine ⟨cacheIndex_toNat a, cacheTag_toNat a, fun _ => cacheIndex_getLsbD a, fun _ => cacheTag_getLsbD a, ?_,
    cacheIndex_eq_iff a b, cacheHit_iff s a⟩
  rw [cacheIndex_toNat, cacheTag_toNat]
  omega

/-! ## CacheRead -/

theorem cacheRead_of_hit {s : State} {a : Addr} (h : cacheHit s a = true) :
    cacheRead s a = { state := countHit s, data := (lineAt s (cacheIndex a)).data, hit := true, stall := 0#3 } :=
  if_pos h

theorem cacheRead_of_miss {s : State} {a : Addr} (h : ¬ cacheHit s a = true) :
    cacheRead s a = { state := countMiss (fillLine s a (memRead s.mem a)), data := memRead s.mem a,
                      hit := false, stall := missStall } :=
  if_neg h

/-- A read changes only the lines and the counters (R50). -/
theorem cacheRead_frame (s : State) (a : Addr) :
    { (cacheRead s a).state with lines := s.lines, ctr := s.ctr } = s := by
  by_cases h : cacheHit s a = true
  · rw [cacheRead_of_hit h]; rfl
  · rw [cacheRead_of_miss h]; rfl

/-- Settles O17, by the two cases of the lookup. -/
theorem cacheReadHitAndMiss : Obligations.CacheReadHitAndMiss := by
  intro s a
  rw [← cacheHit_iff]
  refine ⟨fun hit => ?_, fun miss => ?_, cacheRead_frame s a⟩
  · rw [cacheRead_of_hit hit]
    exact ⟨rfl, rfl, rfl, lineAt_countHit s, countHit_ctr s⟩
  · rw [cacheRead_of_miss miss]
    exact ⟨rfl, rfl, rfl, lineAt_fillLine_same s a _, fun _ => lineAt_fillLine_other s a _, countMiss_ctr _⟩

/-! ## CacheWrite -/

/-- On a hit the indexed line already is valid and holds the tag, so the update of its byte fills it as a miss would. -/
theorem setLine_data_of_hit {s : State} {a : Addr} (h : cacheHit s a = true) (v : Byte) :
    setLine (storeByte s a v) (cacheIndex a) { lineAt s (cacheIndex a) with data := v } =
      fillLine (storeByte s a v) a v := by
  obtain ⟨hvalid, htag⟩ := (cacheHit_iff s a).mp h
  simp only [fillLine, hvalid, htag]

theorem cacheWrite_of_hit {s : State} {a : Addr} (h : cacheHit s a = true) (v : Byte) :
    cacheWrite s a v =
      { state := countHit (fillLine (storeByte s a v) a v), data := v, hit := true, stall := 0#3 } := by
  rw [cacheWrite, if_pos h, setLine_data_of_hit h]

theorem cacheWrite_of_miss {s : State} {a : Addr} (h : ¬ cacheHit s a = true) (v : Byte) :
    cacheWrite s a v =
      { state := countMiss (fillLine (storeByte s a v) a v), data := v, hit := false, stall := missStall } :=
  if_neg h

/-- A hit and a miss write the same byte and leave the same line; only the counters tell them apart (R51). -/
theorem cacheWrite_state (s : State) (a : Addr) (v : Byte) :
    ∃ k, (cacheWrite s a v).state = withCounters k (fillLine (storeByte s a v) a v) := by
  by_cases h : cacheHit s a = true
  · rw [cacheWrite_of_hit h]; exact ⟨_, rfl⟩
  · rw [cacheWrite_of_miss h]; exact ⟨_, rfl⟩

theorem cacheWrite_mem (s : State) (a : Addr) (v : Byte) : (cacheWrite s a v).state.mem = memWrite s.mem a v := by
  obtain ⟨k, hk⟩ := cacheWrite_state s a v
  rw [hk]; rfl

theorem lineAt_cacheWrite (s : State) (a : Addr) (v : Byte) (i : BitVec 3) :
    lineAt (cacheWrite s a v).state i = lineAt (fillLine (storeByte s a v) a v) i := by
  obtain ⟨k, hk⟩ := cacheWrite_state s a v
  rw [hk]; rfl

/-- A write changes only the lines, the counters and memory (R51). -/
theorem cacheWrite_frame (s : State) (a : Addr) (v : Byte) :
    { (cacheWrite s a v).state with lines := s.lines, ctr := s.ctr, mem := s.mem } = s := by
  obtain ⟨k, hk⟩ := cacheWrite_state s a v
  rw [hk]; rfl

/-- Settles O18: memory and the lines by the state a hit and a miss share, the stall and the counters by the two cases
of the lookup. -/
theorem cacheWriteHitAndMiss : Obligations.CacheWriteHitAndMiss := by
  intro s a v
  rw [← cacheHit_iff]
  simp only [cacheWrite_mem, lineAt_cacheWrite]
  refine ⟨memRead_memWrite_same s.mem a v, fun _ => readKey_writeKey_other s.mem v, lineAt_fillLine_same _ a v,
    fun _ => lineAt_fillLine_other (storeByte s a v) a v, fun hit => ?_, fun miss => ?_, cacheWrite_frame s a v⟩
  · rw [cacheWrite_of_hit hit]
    exact ⟨rfl, countHit_ctr _⟩
  · rw [cacheWrite_of_miss miss]
    exact ⟨rfl, countMiss_ctr _⟩

end Sys2Proof.Proofs

/-! PROOFS. The two predicates the controller reads of an opcode (30_encoding.md R79). -/

namespace Sys2Proof.Proofs

open Sys2Proof Sys2Proof.Machine Sys2Proof.Laws

theorem isLoadOp_iff (op : Sel) : isLoadOp op = true ↔ op = 1#4 := beq_iff_eq

theorem isAluOp_iff (op : Sel) : isAluOp op = true ↔ op = 3#4 ∨ op = 4#4 ∨ op = 5#4 ∨ op = 6#4 := by
  simp only [isAluOp, Bool.or_eq_true, beq_iff_eq, or_assoc]

/-- Settles O5: each predicate lists its opcodes as 4-bit words, and a word is fixed by its number. -/
theorem opcodePredicatesAreExact : Obligations.OpcodePredicatesAreExact := by
  intro op
  rw [isLoadOp_iff, isAluOp_iff]
  simp only [← BitVec.toNat_inj]
  exact ⟨Iff.rfl, Iff.rfl⟩

end Sys2Proof.Proofs

/-! PROOFS. The instructions whose execute step only returns the stall 0 (R122, R123): they change nothing else, and the
step that runs one counts it in one cycle. The reserved opcodes decode to such instructions, and the controller's
predicates miss them (R79, R136). -/

namespace Sys2Proof.Proofs

open Sys2Proof Sys2Proof.Machine Sys2Proof.Laws

/-! ## An instruction without effect -/

theorem nothingElse_returnStall (s : State) : NothingElse s (returnStall s 0#3) := by
  simp [NothingElse, ExecKept, ControlKept, PipeFieldsKept, FlowOutputsKept, RegsKept, MemKept, FlagsKept,
    AddressRegsKept, CacheKept]

/-- R130 to R132: the step in which the instruction in PR executes. -/
theorem step_of_executing {s : State} (h : executing s = true) :
    step s = .next (finishCycle (retire (after s.pr.instr (clearReady (beginCycle s))))) := by
  obtain ⟨hstuck, hcap, hgate, hexec⟩ := (executing_iff s).mp h
  have hbegin : toExecute (beginCycle s) = true := hexec
  simp [step, runLoopStep, cycle_eq, hstuck, Nat.not_le.mpr hcap, hgate, hbegin]

/-- R122, R123: a cycle whose execute step has no effect is one more cycle and one more instruction, and none of its
other procedures writes a value. -/
theorem idleCycle_keeps (s : State) :
    let t := finishCycle (retire (returnStall (clearReady (beginCycle s)) 0#3))
    t.ctr.instructions = s.ctr.instructions + 1 ∧ t.ctr.cycles = s.ctr.cycles + 1 ∧
    RegsKept s t ∧ MemKept s t ∧ FlagsKept s t ∧ AddressRegsKept s t ∧ CacheKept s t := by
  obtain ⟨hcycles, hinstructions, -⟩ := finishCycle_counters (retire (returnStall (clearReady (beginCycle s)) 0#3))
  refine ⟨hinstructions.trans (by simp), hcycles.trans (by simp), ?_⟩
  simp [RegsKept, MemKept, FlagsKept, AddressRegsKept, CacheKept]

/-! ## The reserved instructions -/

theorem after_reserved {i : Instr} (h : IsReserved i) (s : State) : after i s = returnStall s 0#3 := by
  rcases h with ⟨o, m, rfl⟩ | ⟨x, o, m, rfl⟩ | ⟨xx, o, m, rfl⟩
  · exact after_rsvd1001 o m s
  · exact after_rsvd101x x o m s
  · exact after_rsvd11xx xx o m s

/-- R73, R75: the rows 9 to 15 of the opcode table are the reserved ones. -/
theorem isReserved_instrOfFields {op : Sel} (h : 9 ≤ op.toNat) (o : Sel) (m : Byte) :
    IsReserved (instrOfFields op o m) := by
  unfold instrOfFields
  split
  case h_10 => exact .inl ⟨o, m, rfl⟩
  case h_11 | h_12 => exact .inr (.inl ⟨_, o, m, rfl⟩)
  case h_13 => exact .inr (.inr ⟨_, o, m, rfl⟩)
  all_goals omega

theorem isLoadOp_of_reserved {op : Sel} (h : 9 ≤ op.toNat) : isLoadOp op = false := by
  rw [← Bool.not_eq_true, isLoadOp_iff]
  rintro rfl
  exact absurd h (by decide)

theorem isAluOp_of_reserved {op : Sel} (h : 9 ≤ op.toNat) : isAluOp op = false := by
  rw [← Bool.not_eq_true, isAluOp_iff]
  rintro (rfl | rfl | rfl | rfl) <;> exact absurd h (by decide)

/-- R136: a word that is no ALU instruction needs the register of its operand field and no other. -/
theorem needs_iff_of_not_alu {w : Word} (h : isAluOp (opcodeOf w) = false) (q : Sel) :
    needs w q = true ↔ q = operandOf w := by
  simp [needs, h]

/-- Settles O23: a reserved instruction only returns the stall 0, and the opcode number of a word with a reserved
opcode is above those of LOAD and the ALU. -/
theorem reservedOpcodesRunAsNop : Obligations.ReservedOpcodesRunAsNop := by
  refine ⟨fun i s hi => ⟨⟨_, exec_eq i s, ?_⟩, fun hexec hpr => ⟨_, step_of_executing hexec, ?_⟩⟩, fun w hw => ?_⟩
  · rw [after_reserved hi]
    exact nothingElse_returnStall s
  · rw [hpr, after_reserved hi]
    exact idleCycle_keeps s
  · have hop : 9 ≤ (opcodeOf w).toNat := by rwa [opcodeOf_toNat]
    have halu := isAluOp_of_reserved hop
    exact ⟨isReserved_instrOfFields hop _ _, isLoadOp_of_reserved hop, halu, needs_iff_of_not_alu halu⟩

end Sys2Proof.Proofs

/-! PROOFS. What Forward answers (43_pipeline_cycle.md R138). -/

namespace Sys2Proof.Proofs

open Sys2Proof Sys2Proof.Machine Sys2Proof.Laws

/-- R138: the conditions under which PR's result is ready for the requested register. -/
def ForwardReady (s : State) (req : Sel) : Prop :=
  s.fwdEn = true ∧ s.pr.valid = true ∧ s.pr.producesResult = true ∧ s.pr.resultReady = true ∧ s.pr.destReg = req

theorem forward_of_ready {s : State} {req : Sel} (h : ForwardReady s req) :
    forward s req = some s.pr.resultValue := by
  obtain ⟨hen, hvalid, hproduces, hready, hdest⟩ := h
  simp [forward, hen, hvalid, hproduces, hready, hdest]

theorem forward_of_not_ready {s : State} {req : Sel} (h : ¬ ForwardReady s req) : forward s req = none := by
  refine if_neg fun hcond => h ?_
  simpa [ForwardReady, and_assoc] using hcond

/-- Settles O30: a ready result is the one value answered, and without one nothing is. -/
theorem forwardAnswersTheReadyResult : Obligations.ForwardAnswersTheReadyResult := by
  intro s req v
  constructor
  · intro hanswer
    by_cases h : ForwardReady s req
    · rw [forward_of_ready h] at hanswer
      obtain ⟨hen, hvalid, hproduces, hready, hdest⟩ := h
      exact ⟨hen, hvalid, hproduces, hready, hdest, (Option.some.inj hanswer).symm⟩
    · rw [forward_of_not_ready h] at hanswer
      contradiction
  · rintro ⟨hen, hvalid, hproduces, hready, hdest, rfl⟩
    exact forward_of_ready ⟨hen, hvalid, hproduces, hready, hdest⟩

end Sys2Proof.Proofs

/-! PROOFS. The reported quantities (R160, R161). -/

namespace Sys2Proof.Proofs

open Sys2Proof Sys2Proof.Machine Sys2Proof.Laws

theorem cpi_of_no_instructions {k : Counters} (h : k.instructions = 0) : cpi k = 0 := if_pos h

theorem cpi_of_instructions {k : Counters} (h : k.instructions ≠ 0) :
    cpi k = (k.cycles : ℚ) / (k.instructions : ℚ) := if_neg h

/-- Settles O56: the quotient by a count other than 0 gives the cycles back when multiplied by it. -/
theorem reportedQuantities : Obligations.ReportedQuantities := by
  intro k
  refine ⟨cpi_of_no_instructions, fun h => ?_, rfl⟩
  rw [cpi_of_instructions h]
  exact div_mul_cancel₀ _ (Nat.cast_ne_zero.mpr h)

end Sys2Proof.Proofs

/-! PROOFS. What one execute step can change, an inversion for each kind of value, and the claims that a value changes
only where a certain instruction executes. -/

namespace Sys2Proof.Proofs

open Sys2Proof Sys2Proof.Machine Sys2Proof.Laws

/-! ## The values a step changes by its execute step alone -/

/-- The values, the cache lines and the configuration of `t` are those of `s`. -/
structure SameValues (s t : State) : Prop where
  regs    : t.regs = s.regs
  mem     : t.mem = s.mem
  z       : t.z = s.z
  c       : t.c = s.c
  halted  : t.halted = s.halted
  mar     : t.mar = s.mar
  mdr     : t.mdr = s.mdr
  lines   : t.lines = s.lines
  fwdEn   : t.fwdEn = s.fwdEn
  cacheEn : t.cacheEn = s.cacheEn
  params  : t.params = s.params

theorem SameValues.readReg {s t : State} (h : SameValues s t) (q : Sel) : readReg t q = readReg s q :=
  readReg_congr h.regs q

theorem SameValues.lineAt {s t : State} (h : SameValues s t) (i : BitVec 3) : lineAt t i = lineAt s i := by
  simp only [Machine.lineAt, h.lines]

theorem SameValues.flagsKept {s t : State} (h : SameValues s t) : FlagsKept s t := ⟨h.z, h.c⟩

theorem SameValues.addressRegsKept {s t : State} (h : SameValues s t) : AddressRegsKept s t := ⟨h.mar, h.mdr⟩

theorem SameValues.memKept {s t : State} (h : SameValues s t) : MemKept s t := fun _ => by rw [h.mem]

theorem executing_eq_false {s : State} (h : stuck s = true ∨ s.params.maxCycles ≤ s.ctr.cycles ∨
    s.cacheStallRemaining ≠ 0#3 ∨ toExecute s = false) : executing s = false := by
  rw [← Bool.not_eq_true, executing_iff]
  rintro ⟨hstuck, hcap, hgate, hexec⟩
  rcases h with h | h | h | h
  · simp [h] at hstuck
  · omega
  · exact h hgate
  · simp [h] at hexec

/-- A step that does not execute changes no value; one that executes changes what its instruction changes. -/
theorem step_values {s t : State} (h : step s = .next t) :
    (executing s = false ∧ SameValues s t) ∨
    (executing s = true ∧ SameValues (after s.pr.instr (clearReady (beginCycle s))) t) := by
  rcases step_cases h with ⟨hs, rfl⟩ | ⟨_, hc, rfl⟩ | ⟨_, _, hg, rfl⟩ | ⟨_, _, _, hx, rfl⟩ | ⟨hs, hc, hg, hx, rfl⟩
  · exact .inl ⟨executing_eq_false (.inl hs), by constructor <;> rfl⟩
  · exact .inl ⟨executing_eq_false (.inr (.inl hc)), by constructor <;> rfl⟩
  · exact .inl ⟨executing_eq_false (.inr (.inr (.inl hg))), by constructor <;> rfl⟩
  · exact .inl ⟨executing_eq_false (.inr (.inr (.inr hx))), by constructor <;> simp⟩
  · exact .inr ⟨(executing_iff s).mpr ⟨hs, hc, hg, hx⟩, by constructor <;> simp⟩

/-! ## What an instruction changes -/

/-- R17, R95: only ADD and SUB write the flags. -/
theorem after_flags_cases (i : Instr) (s : State) :
    FlagsKept s (after i s) ∨ ∃ r m, i = .add r m ∨ i = .sub r m := by
  cases i with
  | add r m => exact .inr ⟨r, m, .inl rfl⟩
  | sub r m => exact .inr ⟨r, m, .inr rfl⟩
  | load r a => exact .inl ⟨dataRead_z _ a, dataRead_c _ a⟩
  | store r a => exact .inl ⟨dataWrite_z _ a _, dataWrite_c _ a _⟩
  | _ => exact .inl ⟨rfl, rfl⟩

/-- R43: only STORE writes memory, and one data field of it. -/
theorem after_mem_cases (i : Instr) (s : State) :
    (after i s).mem = s.mem ∨ ∃ r a, i = .store r a ∧ (after i s).mem = memWrite s.mem a (readReg s r) := by
  cases i with
  | load r a => exact .inl (dataRead_mem _ a)
  | store r a => exact .inr ⟨r, a, rfl, dataWrite_mem _ a _⟩
  | _ => exact .inl rfl

theorem readReg_writeResult_other (s : State) {r q : Sel} (v : Byte) (h : q ≠ r) :
    readReg (writeResult s r v) q = readReg s q := readReg_writeReg_other s v h

theorem readReg_finishLoad_other {r q : Sel} (acc : Access) (h : q ≠ r) :
    readReg (finishLoad r acc) q = readReg acc.state q := readReg_writeReg_other (setMdr acc.state acc.data) acc.data h

/-- R10, R12: an instruction changes at most the register it names, and only LOAD and the ALU change that one. -/
theorem after_reg_cases (i : Instr) (s : State) (q : Sel) :
    readReg (after i s) q = readReg s q ∨
    i.operand = q ∧ ((∃ a, i = .load q a) ∨ (∃ m, i = .add q m) ∨ (∃ m, i = .sub q m) ∨ (∃ m, i = .mul q m) ∨
      (∃ m, i = .div q m)) := by
  by_cases h : q = i.operand
  · subst h
    cases i with
    | load r a => exact .inr ⟨rfl, .inl ⟨a, rfl⟩⟩
    | add r m => exact .inr ⟨rfl, .inr (.inl ⟨m, rfl⟩)⟩
    | sub r m => exact .inr ⟨rfl, .inr (.inr (.inl ⟨m, rfl⟩))⟩
    | mul r m => exact .inr ⟨rfl, .inr (.inr (.inr (.inl ⟨m, rfl⟩)))⟩
    | div r m => exact .inr ⟨rfl, .inr (.inr (.inr (.inr ⟨m, rfl⟩)))⟩
    | store r a => exact .inl (readReg_dataWrite _ a _ _)
    | _ => exact .inl rfl
  · left
    cases i with
    | load r a => exact (readReg_finishLoad_other _ h).trans (readReg_dataRead _ a q)
    | store r a => exact readReg_dataWrite _ a _ q
    | add r m | sub r m | mul r m | div r m => exact readReg_writeResult_other s _ h
    | _ => rfl

/-- R16: only LOAD and STORE write `mar` and `mdr`. -/
theorem after_addressRegs_cases (i : Instr) (s : State) :
    AddressRegsKept s (after i s) ∨ ∃ r a, (i = .load r a ∨ i = .store r a) ∧ (after i s).mar = a := by
  cases i with
  | load r a => exact .inr ⟨r, a, .inl rfl, dataRead_mar _ a⟩
  | store r a => exact .inr ⟨r, a, .inr rfl, dataWrite_mar _ a _⟩
  | _ => exact .inl ⟨rfl, rfl⟩

/-- R15: only HALT writes `halted`, and sets it. -/
theorem after_halted_cases (i : Instr) (s : State) :
    (after i s).halted = s.halted ∨ (∃ o m, i = .halt o m) ∧ (after i s).halted = true := by
  cases i with
  | halt o m => exact .inr ⟨⟨o, m, rfl⟩, rfl⟩
  | load r a => exact .inl (dataRead_halted _ a)
  | store r a => exact .inl (dataWrite_halted _ a _)
  | _ => exact .inl rfl

/-! ## Which instruction a change in a step comes from -/

/-- Settles O38: the flags of a step are those of its execute step. -/
theorem onlyAddAndSubChangeFlags : Obligations.OnlyAddAndSubChangeFlags := by
  intro s t h hchanged
  rcases step_values h with ⟨_, kept⟩ | ⟨hexec, kept⟩
  · exact absurd kept.flagsKept hchanged
  · rcases after_flags_cases s.pr.instr (clearReady (beginCycle s)) with ⟨hz, hc⟩ | hinstr
    · exact absurd ⟨kept.z.trans hz, kept.c.trans hc⟩ hchanged
    · exact ⟨hexec, hinstr⟩

/-- Settles O39: the registers of a step are those of its execute step, and register 0 always reads 0. -/
theorem onlyLoadAndAluWriteTheirRegister : Obligations.OnlyLoadAndAluWriteTheirRegister := by
  intro s t q h hchanged
  have hq : q ≠ 0#4 := by
    rintro rfl
    exact hchanged rfl
  rcases step_values h with ⟨_, kept⟩ | ⟨hexec, kept⟩
  · exact absurd (kept.readReg q) hchanged
  · rcases after_reg_cases s.pr.instr (clearReady (beginCycle s)) q with hsame | ⟨hop, hinstr⟩
    · exact absurd ((kept.readReg q).trans hsame) hchanged
    · exact ⟨hexec, hq, hop, hinstr⟩

/-- Settles O40: memory after a step is that of its execute step, where a write to a key changes no other. -/
theorem onlyStoreChangesMemory : Obligations.OnlyStoreChangesMemory := by
  intro s t k h hchanged
  rcases step_values h with ⟨_, kept⟩ | ⟨hexec, kept⟩
  · exact absurd (kept.memKept k) hchanged
  · rw [kept.mem] at hchanged ⊢
    rcases after_mem_cases s.pr.instr (clearReady (beginCycle s)) with hsame | ⟨r, a, hinstr, hwrite⟩
    · exact absurd (congrArg (Memory.readKey · k) hsame) hchanged
    · rw [hwrite] at hchanged ⊢
      obtain rfl : k = dataKey a := by_contra fun hk => hchanged (readKey_writeKey_other s.mem _ hk)
      exact ⟨hexec, r, a, hinstr, rfl, readKey_writeKey_same _ _ _⟩

/-- Settles O41: `mar` and `mdr` after a step are those of its execute step. -/
theorem onlyLoadAndStoreWriteMarAndMdr : Obligations.OnlyLoadAndStoreWriteMarAndMdr := by
  intro s t h hchanged
  rcases step_values h with ⟨_, kept⟩ | ⟨hexec, kept⟩
  · exact absurd kept.addressRegsKept hchanged
  · rcases after_addressRegs_cases s.pr.instr (clearReady (beginCycle s)) with ⟨hmar, hmdr⟩ | ⟨r, a, hinstr, hmar⟩
    · exact absurd ⟨kept.mar.trans hmar, kept.mdr.trans hmdr⟩ hchanged
    · exact ⟨hexec, r, a, hinstr, kept.mar.trans hmar⟩

/-- Settles O42: `halted` after a step is that of its execute step. -/
theorem onlyHaltChangesTheHaltFlag : Obligations.OnlyHaltChangesTheHaltFlag := by
  intro s t h hchanged
  rcases step_values h with ⟨_, kept⟩ | ⟨hexec, kept⟩
  · exact absurd kept.halted hchanged
  · rcases after_halted_cases s.pr.instr (clearReady (beginCycle s)) with hsame | ⟨hinstr, hset⟩
    · exact absurd (kept.halted.trans hsame) hchanged
    · exact ⟨hexec, kept.halted.trans hset, hinstr⟩

/-- No step changes the configuration or a parameter. -/
theorem step_config {s t : State} (h : step s = .next t) :
    t.fwdEn = s.fwdEn ∧ t.cacheEn = s.cacheEn ∧ t.params = s.params := by
  rcases step_values h with ⟨_, kept⟩ | ⟨_, kept⟩
  · exact ⟨kept.fwdEn, kept.cacheEn, kept.params⟩
  · obtain ⟨⟨hf, hc, _, _, hp⟩, _⟩ := after_keeps s.pr.instr (clearReady (beginCycle s))
    exact ⟨kept.fwdEn.trans hf, kept.cacheEn.trans hc, kept.params.trans hp⟩

theorem step_params {s t : State} (h : step s = .next t) : t.params = s.params := by
  obtain ⟨_, _, hparams⟩ := step_config h
  exact hparams

/-- Settles O43: each step keeps the configuration of the state the run began in. -/
theorem configurationIsConstant : Obligations.ConfigurationIsConstant := by
  intro s t k h
  refine stepN_keeps (P := fun u => u.fwdEn = s.fwdEn ∧ u.cacheEn = s.cacheEn ∧ u.params = s.params) ?_ k s t
    ⟨rfl, rfl, rfl⟩ h
  rintro u v ⟨hf, hc, hp⟩ huv
  obtain ⟨hf', hc', hp'⟩ := step_config huv
  exact ⟨hf'.trans hf, hc'.trans hc, hp'.trans hp⟩

/-- Settles O49: a STORE writes inside the 256 cells, and nothing else writes memory. -/
theorem stepKeepsMemoryCanonical : Obligations.StepKeepsMemoryCanonical := by
  intro s t hwf h
  rcases step_values h with ⟨_, kept⟩ | ⟨_, kept⟩
  · rwa [kept.mem]
  · rw [kept.mem]
    rcases after_mem_cases s.pr.instr (clearReady (beginCycle s)) with hsame | ⟨r, a, _, hwrite⟩
    · rwa [hsame]
    · rw [hwrite]
      exact memWrite_wf a _ hwf

end Sys2Proof.Proofs

/-! PROOFS. Encoding (30_encoding.md): the instruction of three fields has these three fields, so decoding and encoding
are inverse; the rows of the opcode table read the opcode alone; what the assembler accepts; the hazard comparison. -/

namespace Sys2Proof.Proofs

open Sys2Proof Sys2Proof.Machine Sys2Proof.Laws

/-! ## The fields of an instruction -/

/-- The opcodes from 12 on are the two set bits of their row and its two don't-care bits. -/
theorem append_low_bits_of_opcode : ∀ op : Sel, 12 ≤ op.toNat → (0b11#2 ++ op.extractLsb' 0 2 : Sel) = op := by decide

theorem low_bits_of_append : ∀ xx : BitVec 2, (0b11#2 ++ xx : Sel).extractLsb' 0 2 = xx := by decide

theorem opcode_instrOfFields (op o : Sel) (m : Byte) : (instrOfFields op o m).opcode = op := by
  unfold instrOfFields
  split
  case h_13 =>
    simp only [imp_false] at *
    exact append_low_bits_of_opcode op (by omega)
  all_goals exact BitVec.eq_of_toNat_eq (by simpa [Instr.opcode] using Eq.symm ‹op.toNat = _›)

theorem operand_instrOfFields (op o : Sel) (m : Byte) : (instrOfFields op o m).operand = o := by
  unfold instrOfFields
  split <;> rfl

theorem imm_instrOfFields (op o : Sel) (m : Byte) : (instrOfFields op o m).imm = m := by
  unfold instrOfFields
  split <;> rfl

/-- An instruction is the one of its three fields. -/
theorem instrOfFields_fields (i : Instr) : instrOfFields i.opcode i.operand i.imm = i := by
  cases i with
  | rsvd101x x o m =>
    obtain rfl | rfl : x = 0#1 ∨ x = 1#1 := by revert x; decide
    all_goals rfl
  | rsvd11xx x o m =>
    have hrow : instrOfFields (0b11#2 ++ x) o m = .rsvd11xx ((0b11#2 ++ x : Sel).extractLsb' 0 2) o m := by
      obtain rfl | rfl | rfl | rfl : x = 0#2 ∨ x = 1#2 ∨ x = 2#2 ∨ x = 3#2 := by revert x; decide
      all_goals rfl
    rwa [low_bits_of_append] at hrow
  | _ => rfl

/-- A word is its three fields put together (R71). -/
theorem append_fields (w : Word) : (opcodeOf w ++ operandOf w ++ immOf w : Word) = w := by
  apply BitVec.eq_of_toNat_eq
  rw [fields_toNat, opcodeOf_toNat, operandOf_toNat, immOf_toNat]
  omega

/-- Settles O1: an encoded word has the instruction's fields, and a decoded instruction the word's. -/
theorem decodeAndEncodeAgree : Obligations.DecodeAndEncodeAgree := by
  refine ⟨fun i => ?_, fun w => ?_⟩
  · obtain ⟨hopcode, hoperand, himm⟩ := encodedFields i
    rw [decode, hopcode, hoperand, himm, instrOfFields_fields]
  · rw [encode, decode, opcode_instrOfFields, operand_instrOfFields, imm_instrOfFields, append_fields]

/-- Settles O2: the decoded instruction has the word's fields. -/
theorem decodedFieldsAreTheSlices : Obligations.DecodedFieldsAreTheSlices := by
  intro w
  rw [decode, opcode_instrOfFields, operand_instrOfFields, imm_instrOfFields]
  exact ⟨opcodeOf_toNat w, operandOf_toNat w, immOf_toNat w⟩

/-- Settles O4: the words are fixed. -/
theorem specWordsDecodeAsListed : Obligations.SpecWordsDecodeAsListed := by
  unfold Obligations.SpecWordsDecodeAsListed
  decide

/-! ## The opcode table -/

theorem opcodeOf_and (v w : Word) : opcodeOf (v &&& w) = opcodeOf v &&& opcodeOf w := BitVec.extractLsb'_and

theorem opcodeOf_eq_iff {v w : Word} (h : v.extractLsb' 0 12 = w.extractLsb' 0 12) :
    opcodeOf v = opcodeOf w ↔ v = w := by
  refine ⟨fun hop => BitVec.eq_of_toNat_eq ?_, congrArg opcodeOf⟩
  have hhigh := congrArg BitVec.toNat hop
  have hlow := congrArg BitVec.toNat h
  rw [opcodeOf_toNat, opcodeOf_toNat] at hhigh
  simp only [BitVec.extractLsb'_toNat, Nat.shiftRight_zero] at hlow
  omega

/-- No row of the table looks at a bit below the opcode. -/
theorem opcodeTable_low_bits : ∀ row ∈ opcodeTable,
    row.mask.extractLsb' 0 12 = 0#12 ∧ row.pattern.extractLsb' 0 12 = 0#12 := by decide

/-- So a row is matched by the opcode alone. -/
theorem matchesWord_iff {row : TableRow} (h : row ∈ opcodeTable) (w : Word) :
    row.matchesWord w = true ↔ opcodeOf w &&& opcodeOf row.mask = opcodeOf row.pattern := by
  obtain ⟨hmask, hpattern⟩ := opcodeTable_low_bits row h
  have hlow : (w &&& row.mask).extractLsb' 0 12 = row.pattern.extractLsb' 0 12 := by
    rw [BitVec.extractLsb'_and, hmask, hpattern, BitVec.and_zero]
  rw [TableRow.matchesWord, beq_iff_eq, ← opcodeOf_eq_iff hlow, opcodeOf_and]

/-- The row of an instruction depends on its opcode alone. -/
theorem rowNumber_instrOfFields (op o : Sel) (m : Byte) :
    (instrOfFields op o m).rowNumber = (instrOfFields op 0 0).rowNumber := by
  unfold instrOfFields
  split <;> rfl

/-- The twelve rows and the sixteen opcodes compared. -/
theorem opcodeTable_rows : ∀ n : Fin 12, ∀ op : Sel,
    (op &&& opcodeOf (opcodeTable[n]).mask = opcodeOf (opcodeTable[n]).pattern ↔
      (instrOfFields op 0 0).rowNumber = n) ∧
    (op &&& opcodeOf (opcodeTable[n]).mask = opcodeOf (opcodeTable[n]).pattern →
      (opcodeTable[n]).mnemonic = mnemonicOf op) := by decide

/-- Settles O3: a row and the row number both read the opcode alone, of which there are sixteen. -/
theorem everyWordMatchesItsTableRowOnly : Obligations.EveryWordMatchesItsTableRowOnly := by
  intro w n row h
  obtain ⟨hn, rfl⟩ := List.getElem?_eq_some_iff.mp h
  rw [matchesWord_iff (List.getElem_mem hn), decode, rowNumber_instrOfFields]
  exact opcodeTable_rows ⟨n, hn⟩ (opcodeOf w)

/-! ## The assembler -/

theorem index?_r {n k : Nat} : (RegName.r n).index? = some k ↔ n < 16 ∧ n = k := by
  simp [RegName.index?]

/-- R77, U20: which pairs of registers an ALU statement may name. -/
theorem aluPairWellFormed_iff (n m : Nat) :
    aluPairWellFormed (.r n) (some (.r m)) = true ↔ n < 16 ∧ m = (n + 1) % 16 := by
  by_cases hn : n < 16
  · simp only [aluPairWellFormed, index?_r.mpr ⟨hn, rfl⟩, beq_iff_eq, index?_r]
    omega
  · simp [aluPairWellFormed, RegName.index?, hn]

theorem assemble_alu (op : AluName) (n m : Nat) (i : Instr) :
    assemble (.alu op (.r n) (some (.r m))) = some i ↔
      n < 16 ∧ m = (n + 1) % 16 ∧ i = aluInstr op (BitVec.ofNat 4 n) := by
  rw [assemble, Option.ite_none_right_eq_some, Asm.wellFormed, aluPairWellFormed_iff, and_assoc]
  refine and_congr_right fun hn => and_congr_right fun _ => ?_
  simp [asmInstr, index?_r.mpr ⟨hn, rfl⟩, eq_comm]

theorem assemble_load {n a : Nat} (hn : n < 16) (ha : a < 256) :
    assemble (.load (.r n) a) = some (.load (BitVec.ofNat 4 n) (BitVec.ofNat 8 a)) := by
  simp [assemble, asmInstr, Asm.wellFormed, RegName.wellFormed, addrWellFormed, index?_r.mpr ⟨hn, rfl⟩, ha]

/-- R71, R73: the word of a LOAD, as a number. -/
theorem encode_load_toNat (r : Sel) (a : Addr) : (encode (.load r a)).toNat = 0x1000 + r.toNat * 256 + a.toNat :=
  fields_toNat 1#4 r a

/-- Settles O6: acceptance by the index of the first register, and the LOAD's word by its fields. -/
theorem assemblerChecksTheSecondRegister : Obligations.AssemblerChecksTheSecondRegister := by
  refine ⟨assemble_alu, fun n a hn ha => ?_, fun _ => rfl⟩
  simp [assembleWord, assemble_load hn ha, encode_load_toNat, Nat.mod_eq_of_lt hn, Nat.mod_eq_of_lt ha]

/-! ## The hazard comparison -/

theorem eq_operandOf_iff (q : Sel) (w : Word) : q = operandOf w ↔ q.toNat = w.toNat / 256 % 16 := by
  rw [← BitVec.toNat_inj, operandOf_toNat]

theorem eq_secondSource_iff (q : Sel) (w : Word) :
    q = secondSource (operandOf w) ↔ q.toNat = (w.toNat / 256 % 16 + 1) % 16 := by
  rw [← BitVec.toNat_inj, secondSource, BitVec.toNat_add, operandOf_toNat]
  rfl

theorem isAluOp_opcodeOf_iff (w : Word) :
    isAluOp (opcodeOf w) = true ↔ 3 ≤ w.toNat / 4096 ∧ w.toNat / 4096 ≤ 6 := by
  obtain ⟨_, halu⟩ := opcodePredicatesAreExact (opcodeOf w)
  rw [halu, opcodeOf_toNat]
  omega

/-- R136: the operand field, and the register after it for an ALU opcode. -/
theorem needs_iff (w : Word) (q : Sel) :
    needs w q = true ↔ q.toNat = w.toNat / 256 % 16 ∨
      (3 ≤ w.toNat / 4096 ∧ w.toNat / 4096 ≤ 6 ∧ q.toNat = (w.toNat / 256 % 16 + 1) % 16) := by
  simp only [needs, Bool.or_eq_true, Bool.and_eq_true, beq_iff_eq, eq_operandOf_iff, eq_secondSource_iff,
    isAluOp_opcodeOf_iff, and_assoc]

/-- Settles O29: the comparison of PR's destination with the need of the word. -/
theorem hazardComparesTheNamedFields : Obligations.HazardComparesTheNamedFields := by
  intro s w
  rw [hazard, Bool.and_eq_true, Bool.and_eq_true, needs_iff, and_assoc]

end Sys2Proof.Proofs

/-! PROOFS. The execute step of each instruction (40_alu.md, 41_load_store.md, 42_control_system.md): result, flags,
memory and cache effects, the returned stall, and the frame. -/

namespace Sys2Proof.Proofs

open Sys2Proof Sys2Proof.Machine Sys2Proof.Laws

/-! ## ALU results as numbers -/

theorem zeroFlag_iff (n : Nibble) : zeroFlag n = true ↔ (widen n).toNat = 0 := by
  rw [zeroFlag, beq_iff_eq, widen_toNat, ← BitVec.toNat_inj]
  rfl

theorem addCarry_iff (a b : Nibble) : addCarry a b = true ↔ 16 ≤ a.toNat + b.toNat := decide_eq_true_iff

theorem subCarryFlag_carryOut (a b : Nibble) : subCarryFlag .carryOut a b = true ↔ b.toNat ≤ a.toNat :=
  decide_eq_true_iff

theorem subCarryFlag_borrow (a b : Nibble) : subCarryFlag .borrow a b = true ↔ a.toNat < b.toNat :=
  decide_eq_true_iff

/-- R93: every product of two signed nibbles, -56 to 64, fits the 8 bits. -/
theorem aluMul_toInt : ∀ a b : Nibble, (aluMul a b).toInt = a.toInt * b.toInt := by decide

theorem divQuotient_of_ne_zero {a b : Nibble} (h : b.toInt ≠ 0) : divQuotient a b = a.toInt.tdiv b.toInt := if_neg h

theorem divQuotient_of_zero {a b : Nibble} (h : b.toInt = 0) : divQuotient a b = 0 := if_pos h

/-- R94: the quotient rounded toward zero, by its remainder. -/
theorem divQuotient_spec {a b : Nibble} (h : b.toInt ≠ 0) : ∃ m : Int,
    a.toInt = divQuotient a b * b.toInt + m ∧ |m| < |b.toInt| ∧ (0 < m → 0 < a.toInt) ∧ (m < 0 → a.toInt < 0) := by
  rw [divQuotient_of_ne_zero h]
  have hneg : a.toInt ≤ 0 → a.toInt.tmod b.toInt ≤ 0 := fun ha => by
    have := Int.tmod_nonneg b.toInt (Int.neg_nonneg.mpr ha)
    rw [Int.neg_tmod] at this
    omega
  have hpos : 0 ≤ a.toInt → 0 ≤ a.toInt.tmod b.toInt := Int.tmod_nonneg b.toInt
  refine ⟨a.toInt.tmod b.toInt, (Int.tdiv_mul_add_tmod _ _).symm, ?_, by omega, by omega⟩
  rw [Int.abs_eq_natAbs, Int.abs_eq_natAbs, Int.natAbs_tmod]
  exact_mod_cast Nat.mod_lt _ (Int.natAbs_pos.mpr h)

/-- R94, R98: below the sign bit the quotient is the plain one. -/
theorem aluDiv_of_small : ∀ a b : Nibble, a.toNat ≤ 7 → b.toNat ≤ 7 → b.toNat ≠ 0 →
    (aluDiv a b).toNat = a.toNat / b.toNat := by decide

/-! ## ALU instructions -/

theorem aluFrame_setFlags {r : Sel} {s t : State} (z c : Bool) (h : AluFrame r s t) :
    AluFrame r s (setFlags t z c) := h

theorem resultWritten_setFlags {r : Sel} {v : Byte} {s t : State} (z c : Bool) (h : ResultWritten r v s t) :
    ResultWritten r v s (setFlags t z c) := h

/-- Settles O7: the sum, the flags and the frame of the result write. -/
theorem addWritesSumAndFlags : Obligations.AddWritesSumAndFlags := by
  intro r imm s
  refine ⟨_, _, exec_eq _ s, ?_, resultWritten_setFlags _ _ (writeResult_written s r _), zeroFlag_iff _, ?_,
    aluFrame_setFlags _ _ (writeResult_frame s r _)⟩
  · rw [widen_toNat, aluAdd_toNat, operandA_toNat, operandB_toNat]
  · rw [← operandA_toNat, ← operandB_toNat]
    exact addCarry_iff _ _

/-- Settles O8: the difference, the flags in both senses of the borrow and the frame of the result write. -/
theorem subWritesDifferenceAndFlags : Obligations.SubWritesDifferenceAndFlags := by
  intro r imm s
  have hc : (after (.sub r imm) s).c = subCarryFlag s.params.subCarry (operandA s r) (operandB s r) := rfl
  refine ⟨_, _, exec_eq _ s, ?_, resultWritten_setFlags _ _ (writeResult_written s r _), zeroFlag_iff _, ?_, ?_,
    aluFrame_setFlags _ _ (writeResult_frame s r _)⟩
  · rw [widen_toNat, aluSub_toNat, operandA_toNat, operandB_toNat]
  · intro sense
    rw [hc, sense, subCarryFlag_carryOut, operandA_toNat, operandB_toNat]
  · intro sense
    rw [hc, sense, subCarryFlag_borrow, operandA_toNat, operandB_toNat]

/-- Settles O9: the product fits the result, which is written without the flags. -/
theorem mulWritesTheSignedProduct : Obligations.MulWritesTheSignedProduct := by
  intro r imm s
  refine ⟨_, _, exec_eq _ s, ?_, writeResult_written s r _, ⟨rfl, rfl⟩, writeResult_frame s r _⟩
  rw [aluMul_toInt, operandA_toInt, operandB_toInt]

/-- Settles O10: the quotient by its remainder, written without the flags. -/
theorem divWritesTheTruncatedQuotient : Obligations.DivWritesTheTruncatedQuotient := by
  intro r imm s
  refine ⟨_, _, exec_eq _ s, fun hzero => ?_, fun hne => ?_, writeResult_written s r _, ⟨rfl, rfl⟩,
    writeResult_frame s r _⟩
  · rw [← operandB_toInt] at hzero
    have hq := aluDiv_toNat (operandA s r) (operandB s r)
    rw [divQuotient_of_zero hzero] at hq
    rw [widen_toNat]
    omega
  · rw [← operandB_toInt, ← operandA_toInt] at *
    obtain ⟨m, hdiv, hbound, hpos, hneg⟩ := divQuotient_spec (a := operandA s r) hne
    exact ⟨_, m, hdiv, hbound, hpos, hneg, by rw [widen_toNat, aluDiv_toNat]⟩

theorem nibbleNat_of_le {v : Byte} (h : v.toNat ≤ 15) : nibbleNat v = v.toNat := Nat.mod_eq_of_lt (by omega)

theorem nibbleInt_of_le {v : Byte} (h : v.toNat ≤ 7) : nibbleInt v = v.toNat := by
  rw [nibbleInt, if_pos (by omega), Nat.mod_eq_of_lt (by omega)]

theorem toNat_of_toInt {v : Byte} {n : Nat} (h : v.toInt = n) : v.toNat = n := by
  have := v.isLt
  rw [BitVec.toInt_eq_toNat_cond] at h
  split at h <;> omega

/-- Settles O11: below the sign and the modulus the four results are the plain ones. -/
theorem smallOperandsGivePlainArithmetic : Obligations.SmallOperandsGivePlainArithmetic := by
  rintro r imm s a b rfl rfl ha hb
  refine ⟨?_, ?_, ?_, ?_⟩
  · obtain ⟨t, v, hexec, hv, ⟨_, _, _, rfl, _⟩, _⟩ := addWritesSumAndFlags r imm s
    rw [nibbleNat_of_le ha, nibbleNat_of_le hb] at hv
    exact ⟨t, hexec, by omega⟩
  · obtain ⟨t, v, hexec, hv, ⟨_, _, _, rfl, _⟩, _⟩ := subWritesDifferenceAndFlags r imm s
    rw [nibbleNat_of_le ha, nibbleNat_of_le hb] at hv
    exact ⟨t, hexec, by omega⟩
  · obtain ⟨t, v, hexec, hv, ⟨_, _, _, rfl, _⟩, _⟩ := mulWritesTheSignedProduct r imm s
    refine ⟨t, hexec, fun ha hb => toNat_of_toInt ?_⟩
    rw [hv, nibbleInt_of_le ha, nibbleInt_of_le hb, Nat.cast_mul]
  · refine ⟨_, exec_eq _ s, fun ha hb hne => ?_⟩
    have hA : (operandA s r).toNat = (readReg s r).toNat := by rw [operandA_toNat, nibbleNat_of_le (by omega)]
    have hB : (operandB s r).toNat = (readReg s (nextSel r)).toNat := by rw [operandB_toNat, nibbleNat_of_le (by omega)]
    have hres : (after (.div r imm) s).pr.resultValue = widen (aluDiv (operandA s r) (operandB s r)) := rfl
    rw [hres, widen_toNat, aluDiv_of_small _ _ (by omega) (by omega) (by omega), hA, hB]

/-! ## LOAD and STORE -/

/-- R52, R54: the access of address `a` misses, with the cache on. -/
def misses (s : State) (a : Addr) : Bool := s.cacheEn && !cacheHit s a

theorem misses_iff (s : State) (a : Addr) : misses s a = true ↔ s.cacheEn = true ∧ cacheHit s a = false := by
  simp [misses]

theorem misses_eq_false_iff (s : State) (a : Addr) : misses s a = false ↔ s.cacheEn = false ∨ cacheHit s a = true := by
  simp [misses, imp_iff_not_or]

/-- R25: a hit finds the byte of its cell where the lines are coherent. -/
theorem line_data_of_hit {s : State} {a : Addr} (hc : Coherent s) (h : cacheHit s a = true) :
    (lineAt s (cacheIndex a)).data = memRead s.mem a := by
  obtain ⟨hvalid, htag⟩ := (cacheHit_iff s a).mp h
  rw [hc _ hvalid, (line_address_iff a _ _).mpr ⟨rfl, htag⟩]

theorem dataRead_of_off {s : State} (off : s.cacheEn = false) (a : Addr) :
    dataRead s a = { state := s, data := memRead s.mem a, hit := false, stall := 0#3 } :=
  if_neg (Bool.eq_false_iff.mp off)

theorem dataRead_of_on {s : State} (on : s.cacheEn = true) (a : Addr) : dataRead s a = cacheRead s a := if_pos on

theorem dataWrite_of_off {s : State} (off : s.cacheEn = false) (a : Addr) (v : Byte) :
    dataWrite s a v = { state := storeByte s a v, data := v, hit := false, stall := 0#3 } :=
  if_neg (Bool.eq_false_iff.mp off)

theorem dataWrite_of_on {s : State} (on : s.cacheEn = true) (a : Addr) (v : Byte) :
    dataWrite s a v = cacheWrite s a v := if_pos on

theorem dataRead_data (s : State) (a : Addr) :
    (dataRead s a).data =
      if s.cacheEn = true ∧ cacheHit s a = true then (lineAt s (cacheIndex a)).data else memRead s.mem a := by
  rcases dataRead_cases s a with ⟨en, e⟩ | ⟨en, hit, e⟩ | ⟨en, hit, e⟩ <;> simp [*]

/-- R57: a coherent cache delivers memory's byte, on or off. -/
theorem dataRead_data_of_coherent {s : State} (hc : Coherent s) (a : Addr) : (dataRead s a).data = memRead s.mem a := by
  rw [dataRead_data]
  split
  · next h => exact line_data_of_hit hc h.2
  · rfl

theorem dataRead_stall (s : State) (a : Addr) :
    (dataRead s a).stall = if misses s a = true then 4#3 else 0#3 := by
  rcases dataRead_cases s a with ⟨en, e⟩ | ⟨en, hit, e⟩ | ⟨en, hit, e⟩ <;> simp [misses, missStall, *]

theorem dataWrite_stall (s : State) (a : Addr) (v : Byte) :
    (dataWrite s a v).stall = if misses s a = true then 4#3 else 0#3 := by
  rcases dataWrite_cases s a v with ⟨en, e⟩ | ⟨en, hit, e⟩ | ⟨en, hit, e⟩ <;> simp [misses, missStall, *]

theorem after_load_stall (r : Sel) (a : Addr) (s : State) :
    (after (.load r a) s).out.stall = if misses s a = true then 4#3 else 0#3 := dataRead_stall (setMar s a) a

theorem after_store_stall (r : Sel) (a : Addr) (s : State) :
    (after (.store r a) s).out.stall = if misses s a = true then 4#3 else 0#3 :=
  dataWrite_stall (setMdr (setMar s a) (readReg s r)) a (readReg s r)

/-- Every instruction but HALT keeps what `ExecKept` lists. -/
theorem after_execKept {i : Instr} (h : ∀ o m, i ≠ .halt o m) (s : State) : ExecKept s (after i s) := by
  refine ⟨?_, after_keeps i s⟩
  rcases after_halted_cases i s with hsame | ⟨⟨o, m, rfl⟩, _⟩
  · exact hsame
  · exact absurd rfl (h o m)

/-- R110: a LOAD writes the byte its access delivers. -/
theorem after_load_written (r : Sel) (a : Addr) (s : State) :
    ResultWritten r (dataRead (setMar s a) a).data s (after (.load r a) s) := by
  have hread (q : Sel) : readReg (after (.load r a) s) q =
      readReg (writeReg (dataRead (setMar s a) a).state r (dataRead (setMar s a) a).data) q := rfl
  refine ⟨fun hr => ⟨?_, ?_⟩, ?_, rfl, rfl, rfl⟩
  · rw [hread, readReg_writeReg_same _ _ hr]
  · simp [after_load, hr]
  · rintro rfl
    exact ⟨rfl, by simp [after_load]⟩

/-- Settles O12: the byte, the stall and the cache effects by the three cases of the access, the rest in all of them. -/
theorem loadDeliversTheByte : Obligations.LoadDeliversTheByte := by
  intro r a s
  refine ⟨_, _, exec_eq _ s, dataRead_data (setMar s a) a, after_load_written r a s, dataRead_mar (setMar s a) a, rfl,
    ?_, ?_, ?_, ?_, after_execKept (by simp) s, fun q hq => ?_, fun k => ?_, ⟨dataRead_z _ a, dataRead_c _ a⟩,
    dataRead_pc _ a, ?_, ?_⟩
  · simp only [after_load_stall, misses_iff]
    split <;> rfl
  all_goals rw [after_load]
  · intro off
    rw [dataRead_of_off (s := setMar s a) off]
    exact ⟨fun _ => rfl, rfl⟩
  · intro on hit
    rw [dataRead_of_on (s := setMar s a) on, cacheRead_of_hit (s := setMar s a) hit]
    exact ⟨fun _ => rfl, rfl⟩
  · intro on miss
    rw [dataRead_of_on (s := setMar s a) on, cacheRead_of_miss (s := setMar s a) (Bool.eq_false_iff.mp miss)]
    exact ⟨lineAt_fillLine_same _ a _, fun i hi => lineAt_fillLine_other (setMar s a) a _ hi, rfl⟩
  · exact (readReg_finishLoad_other _ hq).trans (readReg_dataRead _ a q)
  · rw [finishLoad_mem, dataRead_mem, setMar_mem]
  · rw [finishLoad_pr, dataRead_pr, setMar_pr]
  · rw [finishLoad_out, dataRead_out, setMar_out]

/-- Settles O13: a coherent cache delivers memory's byte. -/
theorem loadReturnsTheMemoryByte : Obligations.LoadReturnsTheMemoryByte := by
  intro r a s hc
  have hdata : (dataRead (setMar s a) a).data = memRead s.mem a := dataRead_data_of_coherent (s := setMar s a) hc a
  refine ⟨_, exec_eq _ s, ?_, hdata⟩
  rw [← hdata]
  exact after_load_written r a s

/-- With the cache on a write leaves the lines of `fillLine`, hit or miss (R51). -/
theorem lineAt_dataWrite {s : State} (on : s.cacheEn = true) (a : Addr) (v : Byte) (i : BitVec 3) :
    lineAt (dataWrite s a v).state i = lineAt (fillLine (storeByte s a v) a v) i := by
  rw [dataWrite_of_on on, lineAt_cacheWrite]

/-- Settles O14: memory and lines in all cases, the stall and the counters by the cases of the access. -/
theorem storeWritesOneDataField : Obligations.StoreWritesOneDataField := by
  intro r a s
  have hmem : (after (.store r a) s).mem = memWrite s.mem a (readReg s r) := dataWrite_mem _ a _
  have hlines (on : s.cacheEn = true) (i : BitVec 3) : lineAt (after (.store r a) s) i =
      lineAt (fillLine (storeByte (setMdr (setMar s a) (readReg s r)) a (readReg s r)) a (readReg s r)) i :=
    lineAt_dataWrite (s := setMdr (setMar s a) (readReg s r)) on a _ i
  refine ⟨_, exec_eq _ s, ?_, fun k hk => ?_, dataWrite_mar _ a _, dataWrite_mdr _ a _, ?_, ?_, fun on => ?_, ?_, ?_,
    after_execKept (by simp) s, ?_, fun q => readReg_dataWrite _ a _ q, ⟨dataWrite_z _ a _, dataWrite_c _ a _⟩,
    dataWrite_pc _ a _, ?_, ?_, ?_⟩
  · rw [hmem]
    exact readKey_writeKey_same _ _ _
  · rw [hmem]
    exact readKey_writeKey_other _ _ hk
  · simp only [after_store_stall, misses_iff]
    split <;> rfl
  · intro off
    rw [after_store, dataWrite_of_off (s := setMdr (setMar s a) (readReg s r)) off]
    exact ⟨fun _ => rfl, rfl⟩
  · exact ⟨(hlines on _).trans (lineAt_fillLine_same _ a _),
      fun i hi => (hlines on i).trans (lineAt_fillLine_other _ a _ hi)⟩
  · intro on hit
    rw [after_store, dataWrite_of_on (s := setMdr (setMar s a) (readReg s r)) on,
      cacheWrite_of_hit (s := setMdr (setMar s a) (readReg s r)) hit]
    rfl
  · intro on miss
    rw [after_store, dataWrite_of_on (s := setMdr (setMar s a) (readReg s r)) on,
      cacheWrite_of_miss (s := setMdr (setMar s a) (readReg s r)) (Bool.eq_false_iff.mp miss)]
    rfl
  all_goals rw [after_store]
  · simp [ResultFieldsKept]
  · simp
  · simp
  · simp

/-- What an instruction other than LOAD and STORE returns is the stall 0 (R113). -/
theorem after_stall_eq_zero {i : Instr} (h : ∀ r a, i ≠ .load r a ∧ i ≠ .store r a) (s : State) :
    (after i s).out.stall = 0#3 := by
  cases i with
  | load r a => exact absurd rfl (h r a).1
  | store r a => exact absurd rfl (h r a).2
  | _ => rfl

/-- R113 for an instruction that accesses address `a`. -/
theorem after_access_stall {i : Instr} {r : Sel} {a : Addr} (h : i = .load r a ∨ i = .store r a) (s : State)
    : (after i s).out.stall = if misses s a = true then 4#3 else 0#3 := by
  rcases h with rfl | rfl
  · exact after_load_stall r a s
  · exact after_store_stall r a s

/-- Settles O15, by whether the instruction accesses memory. -/
theorem onlyACacheMissReturnsAStall : Obligations.OnlyACacheMissReturnsAStall := by
  intro i s t h
  obtain rfl : after i s = t := by simpa [exec_eq] using h
  by_cases hacc : ∃ r a, i = .load r a ∨ i = .store r a
  · obtain ⟨r, a, hi⟩ := hacc
    rw [after_access_stall hi]
    by_cases hm : misses s a = true
    · obtain ⟨on, miss⟩ := (misses_iff s a).mp hm
      rw [if_pos hm]
      exact ⟨⟨fun _ => ⟨on, r, a, hi, miss⟩, fun _ => rfl⟩, .inl rfl⟩
    · rw [if_neg hm]
      refine ⟨⟨fun h4 => absurd h4 (by decide), ?_⟩, .inr rfl⟩
      rintro ⟨on, r', a', hi', miss⟩
      obtain rfl : a = a' := by
        rcases hi with rfl | rfl <;> rcases hi' with h' | h' <;> cases h' <;> rfl
      exact absurd ((misses_iff s a).mpr ⟨on, miss⟩) hm
  · push Not at hacc
    rw [after_stall_eq_zero hacc]
    refine ⟨⟨fun h4 => absurd h4 (by decide), ?_⟩, .inr rfl⟩
    rintro ⟨_, r, a, hi | hi, _⟩
    · exact absurd hi (hacc r a).1
    · exact absurd hi (hacc r a).2

/-! ## Repeated reads -/

/-- After a read the indexed line is the address's and holds the byte read, on a hit and on a miss. -/
theorem lineAt_cacheRead (s : State) (a : Addr) : lineAt (cacheRead s a).state (cacheIndex a) =
    { valid := true, tag := cacheTag a, data := (cacheRead s a).data } := by
  by_cases h : cacheHit s a = true
  · obtain ⟨hvalid, htag⟩ := (cacheHit_iff s a).mp h
    rw [cacheRead_of_hit h, lineAt_countHit, ← hvalid, ← htag]
  · rw [cacheRead_of_miss h, lineAt_countMiss, lineAt_fillLine_same]

theorem eq_of_tag_of_index {a b : Addr} (ht : cacheTag a = cacheTag b) (hi : cacheIndex a = cacheIndex b) : a = b := by
  rw [← tag_append_index a, ht, hi, tag_append_index b]

/-- Settles O19: the line a read leaves is found by the same address and no other of that index. -/
theorem repeatHitsAndConflictEvicts : Obligations.RepeatHitsAndConflictEvicts := by
  intro s a b
  have hline := lineAt_cacheRead s a
  have hhit : cacheHit (cacheRead s a).state a = true := (cacheHit_iff _ a).mpr (by simp [hline])
  refine ⟨?_, fun hindex hne => ?_⟩
  · rw [cacheRead_of_hit hhit, hline]
    exact ⟨rfl, rfl⟩
  · have hevicted := lineAt_cacheRead (cacheRead s a).state b
    have hmiss : ¬ cacheHit (cacheRead (cacheRead s a).state b).state a = true := by
      rw [cacheHit_iff, ← hindex, hevicted]
      rintro ⟨_, htag⟩
      exact hne (eq_of_tag_of_index htag hindex)
    rw [cacheRead_of_miss hmiss]

/-! ## JMP, HALT, NOP -/

theorem setWidth_toNat (a : Addr) : (a.setWidth 9).toNat = a.toNat := by
  have := a.isLt
  rw [BitVec.toNat_setWidth]
  omega

/-- Settles O20: a jump writes `pc`, the flush and PR's validity. -/
theorem jumpSetsPcAndCountsTheFlush : Obligations.JumpSetsPcAndCountsTheFlush := by
  intro operand a s
  refine ⟨_, exec_eq _ s, setWidth_toNat a, rfl, rfl, rfl, rfl, after_execKept (by simp) s, ?_⟩
  simp [after_jmp, ResultFieldsKept, RegsKept, MemKept, FlagsKept, AddressRegsKept, CacheKept]

/-- Settles O21: HALT writes `halted` alone. -/
theorem haltSetsTheHaltFlag : Obligations.HaltSetsTheHaltFlag := by
  intro operand imm s
  obtain ⟨hcontrol, _, hflow⟩ := after_keeps (.halt operand imm) s
  refine ⟨_, exec_eq _ s, rfl, hcontrol, hflow, ?_⟩
  simp [after_halt, RegsKept, MemKept, FlagsKept, AddressRegsKept, CacheKept]

/-- Settles O22: NOP returns the stall 0 and has no other effect, as the reserved instructions. -/
theorem nopIsCountedAndDoesNothing : Obligations.NopIsCountedAndDoesNothing := by
  intro operand imm s
  refine ⟨⟨_, exec_eq _ s, nothingElse_returnStall s⟩, fun hexec hpr => ⟨_, step_of_executing hexec, ?_⟩⟩
  rw [hpr, after_nop]
  exact idleCycle_keeps s

end Sys2Proof.Proofs

/-! PROOFS. The invariants of the machine (10_state.md R13, R14, R22, R25; 20_memory.md R53 to R55; 43_pipeline_cycle.md
R134 to R140): each is carried through the execute step, then through steps 3 to 6. -/

namespace Sys2Proof.Proofs

open Sys2Proof Sys2Proof.Machine Sys2Proof.Laws

/-! ## The state between the execute step and steps 3 to 6 -/

/-- The state after the execute step of a cycle that executes (R130 step 2, R132). -/
def executedState (s : State) : State := retire (after s.pr.instr (clearReady (beginCycle s)))

theorem executedState_stalled (s : State) : (executedState s).out.stalled = false := by
  obtain ⟨_, _, hstalled, _⟩ := after_keeps s.pr.instr (clearReady (beginCycle s))
  exact hstalled

theorem executedState_executed (s : State) : (executedState s).pr.executed = true := rfl

theorem toExecute_executedState (s : State) : toExecute (executedState s) = false := by
  simp [toExecute, executedState_executed]

/-- The cases of a step that matter to an invariant: nothing changes but the condition, a gate cycle, or a whole cycle
from a state in which nothing executes or from the state after the execute step. -/
theorem step_stages {P : State → Prop} {s t : State} (h : step s = .next t) (hs : P s)
    (hraise : stuck s = false → P (raise (.nonTermination s.ctr.cycles) s))
    (hgate : stuck s = false → s.cacheStallRemaining ≠ 0#3 → P (gateCycle (beginCycle s)))
    (hidle : stuck s = false → s.cacheStallRemaining = 0#3 → toExecute s = false → P (finishCycle (beginCycle s)))
    (hexec : stuck s = false → s.cacheStallRemaining = 0#3 → toExecute s = true → P (finishCycle (executedState s))) :
    P t := by
  rcases step_cases h with ⟨_, rfl⟩ | ⟨hst, _, rfl⟩ | ⟨hst, _, hg, rfl⟩ | ⟨hst, _, hg, hx, rfl⟩ | ⟨hst, _, hg, hx, rfl⟩
  · exact hs
  · exact hraise hst
  · exact hgate hst hg
  · exact hidle hst hg hx
  · exact hexec hst hg hx

/-! ## `pc` and PR through steps 3 to 6 -/

/-- What steps 3 to 6 can do to `pc` and PR: keep both, empty PR, or latch the cell at `pc` (R133 to R140). -/
theorem finishCycle_pr_cases {u : State} (hs : u.out.stalled = false) :
    ((finishCycle u).pc = u.pc ∧ (finishCycle u).pr = u.pr ∧ (u.out.stall ≠ 0#3 ∨ u.halted = false)) ∨
    ((finishCycle u).pc = u.pc ∧ (finishCycle u).pr.valid = false) ∨
    (u.pc.toNat < 256 ∧ u.halted = false ∧ (finishCycle u).pc = u.pc + 1#9 ∧
      (finishCycle u).pr = latch (cellAt u.mem (u.pc.setWidth 8)) (u.pc.setWidth 8)) := by
  rcases finishCycle_all_cases hs with ⟨hstall, e⟩ | ⟨_, _, e⟩ | ⟨_, hh, _, e⟩ |
    ⟨w, _, hh, hpc, rfl, ⟨_, e⟩ | ⟨v, _, _, e⟩ | ⟨_, _, e⟩⟩
  · exact .inl ⟨by rw [e]; rfl, by rw [e]; rfl, .inl hstall⟩
  · exact .inr (.inl ⟨by rw [e]; rfl, by rw [e]; rfl⟩)
  · exact .inl ⟨by rw [e]; rfl, by rw [e]; rfl, .inr hh⟩
  · exact .inr (.inr ⟨hpc, hh, by rw [e]; rfl, by rw [e]; rfl⟩)
  · exact .inr (.inr ⟨hpc, hh, by rw [e]; rfl, by rw [e]; rfl⟩)
  · exact .inr (.inl ⟨by rw [e]; rfl, by rw [e]; rfl⟩)

theorem pc_setWidth_toNat {p : PcWord} (h : p.toNat < 256) : (p.setWidth 8).toNat = p.toNat := by
  rw [BitVec.toNat_setWidth]
  omega

theorem finishCycle_pcInRange {u : State} (hs : u.out.stalled = false) (h : PcInRange u) :
    PcInRange (finishCycle u) := by
  unfold PcInRange at *
  rcases finishCycle_pr_cases hs with ⟨hpc, _⟩ | ⟨hpc, _⟩ | ⟨hlt, _, hpc, _⟩
  · rwa [hpc]
  · rwa [hpc]
  · rw [hpc, pc_add_one hlt]
    omega

theorem finishCycle_pcFollowsPr {u : State} (hs : u.out.stalled = false) (h : PcFollowsPr u) :
    PcFollowsPr (finishCycle u) := by
  rcases finishCycle_pr_cases hs with ⟨hpc, hpr, _⟩ | ⟨_, hpr⟩ | ⟨hlt, _, hpc, hpr⟩
  · unfold PcFollowsPr
    rwa [hpc, hpr]
  · intro hvalid
    exact absurd (hpr.symm.trans hvalid) (by decide)
  · intro _
    rw [hpc, hpr, pc_add_one hlt, latch_pc, pc_setWidth_toNat hlt]

theorem executedState_pcInRange {s : State} (h : PcInRange s) : PcInRange (executedState s) := by
  unfold PcInRange at *
  rcases after_pc_valid s.pr.instr (clearReady (beginCycle s)) with ⟨hpc, _⟩ | ⟨o, a, _, hpc, _⟩
  · rwa [executedState, retire_pc, hpc]
  · have := a.isLt
    rw [executedState, retire_pc, hpc, setWidth_toNat]
    omega

theorem executedState_pcFollowsPr {s : State} (h : PcFollowsPr s) : PcFollowsPr (executedState s) := by
  intro hvalid
  have hprpc : (executedState s).pr.pc = s.pr.pc := by
    obtain ⟨_, ⟨_, _, _, _, hprpc, _⟩, _⟩ := after_keeps s.pr.instr (clearReady (beginCycle s))
    exact hprpc
  rcases after_pc_valid s.pr.instr (clearReady (beginCycle s)) with ⟨hpc, hv⟩ | ⟨o, a, _, _, hv⟩
  · rw [hprpc, executedState, retire_pc, hpc]
    exact h (hv.symm.trans hvalid)
  · exact absurd (hv.symm.trans hvalid) (by decide)

theorem step_pcFollowsPr {s t : State} (hpr : PcFollowsPr s) (h : step s = .next t) : PcFollowsPr t :=
  step_stages h hpr (fun _ => hpr) (fun _ _ => hpr) (fun _ _ _ => finishCycle_pcFollowsPr (u := beginCycle s) rfl hpr)
    (fun _ _ _ => finishCycle_pcFollowsPr (executedState_stalled s) (executedState_pcFollowsPr hpr))

theorem step_pcInRange {s t : State} (hpc : PcInRange s) (h : step s = .next t) : PcInRange t :=
  step_stages h hpc (fun _ => hpc) (fun _ _ => hpc) (fun _ _ _ => finishCycle_pcInRange (u := beginCycle s) rfl hpc)
    (fun _ _ _ => finishCycle_pcInRange (executedState_stalled s) (executedState_pcInRange hpc))

/-- Settles O51: a jump goes to a cell, and the advance leaves a `pc` below 256 one past the latched address. -/
theorem stepKeepsPcInRange : Obligations.StepKeepsPcInRange :=
  fun _ _ ⟨hpc, hpr⟩ h => ⟨step_pcInRange hpc h, step_pcFollowsPr hpr h⟩

/-! ## The cache -/

theorem SameValues.coherent {s t : State} (h : SameValues s t) (hc : Coherent s) : Coherent t := by
  intro i
  rw [h.lineAt, h.mem]
  exact hc i

/-- A line filled with its cell's byte keeps coherent what is coherent in the other lines. -/
theorem coherent_fillLine {s : State} {a : Addr} {d : Byte} (hd : d = memRead s.mem a)
    (hother : ∀ i, i ≠ cacheIndex a → (lineAt s i).valid = true →
      (lineAt s i).data = memRead s.mem (BitVec.ofNat 8 ((lineAt s i).tag.toNat * 8 + i.toNat))) :
    Coherent (fillLine s a d) := by
  intro i
  by_cases hi : i = cacheIndex a
  · subst hi
    rw [lineAt_fillLine_same, fillLine_mem, (line_address_iff a _ _).mpr ⟨rfl, rfl⟩]
    exact fun _ => hd
  · rw [lineAt_fillLine_other s a d hi, fillLine_mem]
    exact hother i hi

/-- A write to memory leaves coherent the lines of other indices (R51). -/
theorem coherent_fillLine_storeByte {s : State} (hc : Coherent s) (a : Addr) (v : Byte) :
    Coherent (fillLine (storeByte s a v) a v) := by
  refine coherent_fillLine (memRead_memWrite_same s.mem a v).symm fun i hi hvalid => ?_
  have hne : BitVec.ofNat 8 ((lineAt s i).tag.toNat * 8 + i.toNat) ≠ a := fun he =>
    hi ((line_address_iff a i _).mp he).1
  rw [storeByte_mem, lineAt_storeByte, memRead_memWrite_other _ _ hne]
  exact hc i hvalid

theorem dataRead_coherent {s : State} (hc : Coherent s) (a : Addr) : Coherent (dataRead s a).state := by
  rcases dataRead_cases s a with ⟨_, e⟩ | ⟨_, _, e⟩ | ⟨_, _, e⟩ <;> rw [e]
  · exact hc
  · exact hc
  · exact coherent_fillLine rfl fun i _ => hc i

theorem coherent_of_fresh {s : State} (h : ∀ i, lineAt s i = CacheLine.fresh) : Coherent s := by
  intro i hvalid
  rw [h i] at hvalid
  exact absurd hvalid (by decide)

/-- With the cache off no line is valid, so the direct write leaves nothing stale. -/
theorem dataWrite_coherent {s : State} (hc : Coherent s) (hidle : CacheIdle s) (a : Addr) (v : Byte) :
    Coherent (dataWrite s a v).state := by
  cases on : s.cacheEn with
  | true =>
    intro i
    rw [lineAt_dataWrite on, dataWrite_mem]
    exact coherent_fillLine_storeByte hc a v i
  | false =>
    obtain ⟨hfresh, _⟩ := hidle on
    rw [dataWrite_of_off on]
    exact coherent_of_fresh (s := storeByte s a v) hfresh

theorem after_coherent (i : Instr) {s : State} (hc : Coherent s) (hidle : CacheIdle s) : Coherent (after i s) := by
  cases i with
  | load r a => exact dataRead_coherent (s := setMar s a) hc a
  | store r a => exact dataWrite_coherent (s := setMdr (setMar s a) (readReg s r)) hc hidle a (readReg s r)
  | _ => exact hc

theorem after_cacheIdle (i : Instr) {s : State} (hidle : CacheIdle s) : CacheIdle (after i s) := by
  cases i with
  | load r a =>
    intro off
    have off' : (setMar s a).cacheEn = false := (dataRead_cacheEn (setMar s a) a).symm.trans off
    rw [after_load, dataRead_of_off off']
    exact hidle off'
  | store r a =>
    intro off
    have off' : (setMdr (setMar s a) (readReg s r)).cacheEn = false :=
      (dataWrite_cacheEn (setMdr (setMar s a) (readReg s r)) a (readReg s r)).symm.trans off
    rw [after_store, dataWrite_of_off off']
    exact hidle off'
  | _ => exact hidle

/-- An instruction that stalls has counted a miss, which the cache switched off never does (R54). -/
theorem stall_of_cacheIdle {i : Instr} {s : State} (hidle : CacheIdle (after i s)) (off : (after i s).cacheEn = false) :
    (after i s).out.stall = 0#3 := by
  rcases after_stall_cases i s with ⟨hstall, _⟩ | ⟨_, hmiss, _⟩
  · exact hstall
  · obtain ⟨_, _, hnone, _⟩ := hidle off
    omega

theorem finishCycle_cacheIdle {u : State} (hidle : CacheIdle u) (hstall : u.cacheEn = false → u.out.stall = 0#3) :
    CacheIdle (finishCycle u) := by
  intro off
  rw [finishCycle_cacheEn] at off
  obtain ⟨_, _, _, hhits, hmisses, hstalls⟩ := finishCycle_counters u
  simp only [lineAt_finishCycle, hhits, hmisses, hstalls, finishCycle_countdown, hstall off, if_true]
  exact hidle off

theorem step_cacheIdle {s t : State} (hidle : CacheIdle s) (h : step s = .next t) : CacheIdle t := by
  refine step_stages h hidle (fun _ => hidle) (fun _ hgate off => ?_) (fun _ _ _ => ?_) (fun _ _ _ => ?_)
  · obtain ⟨_, _, _, _, hzero⟩ := hidle off
    exact absurd hzero hgate
  · exact finishCycle_cacheIdle (u := beginCycle s) hidle fun _ => rfl
  · have hafter := after_cacheIdle s.pr.instr (s := clearReady (beginCycle s)) hidle
    exact finishCycle_cacheIdle (u := executedState s) hafter (stall_of_cacheIdle hafter)

theorem step_coherent {s t : State} (hc : Coherent s) (hidle : CacheIdle s) (h : step s = .next t) : Coherent t := by
  rcases step_values h with ⟨_, kept⟩ | ⟨_, kept⟩
  · exact kept.coherent hc
  · exact kept.coherent (after_coherent s.pr.instr (s := clearReady (beginCycle s)) hc hidle)

/-- Settles O50: only a LOAD or STORE touches the lines or memory, and with the cache off only memory. -/
theorem stepKeepsTheCacheCoherent : Obligations.StepKeepsTheCacheCoherent :=
  fun _ _ ⟨hc, hidle⟩ h => ⟨step_coherent hc hidle h, step_cacheIdle hidle h⟩

/-! ## Miss accounting -/

theorem finishCycle_missAccounting {u : State} (h : MissAccounting u) : MissAccounting (finishCycle u) := by
  obtain ⟨_, _, _, _, hmisses, hstalls⟩ := finishCycle_counters u
  unfold MissAccounting at *
  rwa [hmisses, hstalls]

theorem finishCycle_stallInRange {u : State} (h : StallInRange u) (hstall : u.out.stall.toNat ≤ 4) :
    StallInRange (finishCycle u) := by
  unfold StallInRange at *
  rw [finishCycle_countdown]
  split
  · exact h
  · exact hstall

theorem executedState_missAccounting {s : State} (h : MissAccounting s) : MissAccounting (executedState s) := by
  have hbegun : (clearReady (beginCycle s)).ctr.cacheStallCycles = 4 * (clearReady (beginCycle s)).ctr.cacheMisses := h
  unfold MissAccounting
  rw [executedState, retire_ctr]
  rcases after_stall_cases s.pr.instr (clearReady (beginCycle s)) with ⟨_, hm, hs⟩ | ⟨_, hm, hs, _⟩
  · rw [hm, hs, hbegun]
  · rw [hm, hs, hbegun, Nat.mul_add]

theorem executedState_stall_le (s : State) : (executedState s).out.stall.toNat ≤ 4 := by
  rw [executedState, retire_out]
  rcases after_stall_cases s.pr.instr (clearReady (beginCycle s)) with ⟨hstall, _⟩ | ⟨hstall, _⟩
  all_goals
    rw [hstall]
    decide

theorem executedState_countdown (s : State) : (executedState s).cacheStallRemaining = s.cacheStallRemaining := by
  obtain ⟨⟨_, _, hcountdown, _⟩, _⟩ := after_keeps s.pr.instr (clearReady (beginCycle s))
  exact hcountdown

theorem countdown_sub_one {n : BitVec 3} (h : n ≠ 0#3) : (n - 1#3).toNat + 1 = n.toNat := by
  have hpos : n.toNat ≠ 0 := fun h0 => h (BitVec.eq_of_toNat_eq h0)
  rw [BitVec.toNat_sub]
  have := n.isLt
  simp only [BitVec.toNat_ofNat]
  omega

theorem step_missAccounting {s t : State} (hm : MissAccounting s) (h : step s = .next t) : MissAccounting t :=
  step_stages h hm (fun _ => hm) (fun _ _ => hm) (fun _ _ _ => finishCycle_missAccounting (u := beginCycle s) hm)
    (fun _ _ _ => finishCycle_missAccounting (executedState_missAccounting hm))

theorem step_stallInRange {s t : State} (hr : StallInRange s) (h : step s = .next t) : StallInRange t := by
  refine step_stages h hr (fun _ => hr) (fun _ hgate => ?_) (fun _ _ _ => ?_) (fun _ _ _ => ?_)
  · have hdown := countdown_sub_one hgate
    unfold StallInRange at *
    rw [gateCycle_cacheStallRemaining, beginCycle_cacheStallRemaining]
    omega
  · exact finishCycle_stallInRange (u := beginCycle s) hr (Nat.zero_le 4)
  · refine finishCycle_stallInRange ?_ (executedState_stall_le s)
    rwa [StallInRange, executedState_countdown]

/-- Settles O52: a miss is counted with its four stall cycles, and the countdown starts from 4. -/
theorem stepKeepsMissAccounting : Obligations.StepKeepsMissAccounting :=
  fun _ _ ⟨hm, hr⟩ h => ⟨step_missAccounting hm h, step_stallInRange hr h⟩

/-! ## The consistency of PR -/

theorem prConsistent_of_invalid {s : State} (h : s.pr.valid = false) : PrConsistent s := fun hvalid =>
  absurd (h.symm.trans hvalid) (by decide)

theorem prConsistent_of_latch {s : State} {w : Word} {a : Addr} (h : s.pr = latch w a) : PrConsistent s := by
  intro _
  rw [h]
  exact ⟨rfl, rfl, rfl, fun _ hexecuted => absurd hexecuted Bool.false_ne_true⟩

theorem finishCycle_prConsistent {u : State} (hs : u.out.stalled = false) (h : PrConsistent u) :
    PrConsistent (finishCycle u) := by
  rcases finishCycle_pr_cases hs with ⟨_, hpr, _⟩ | ⟨_, hpr⟩ | ⟨_, _, _, hpr⟩
  · unfold PrConsistent
    rwa [hpr]
  · exact prConsistent_of_invalid hpr
  · exact prConsistent_of_latch hpr

/-- R73: opcode 1 is LOAD. -/
theorem instr_of_isLoadOp {p : PipeReg} (h : isLoadOp p.opcode = true) : p.instr = .load p.operand p.imm := by
  rw [PipeReg.instr, (isLoadOp_iff _).mp h]
  rfl

theorem executedState_prConsistent {s : State} (h : PrConsistent s) : PrConsistent (executedState s) := by
  intro hvalid
  obtain ⟨_, ⟨hbubble, hopcode, hoperand, _, _, hload, hdest, _⟩, _⟩ :=
    after_keeps s.pr.instr (clearReady (beginCycle s))
  rcases after_pc_valid s.pr.instr (clearReady (beginCycle s)) with ⟨_, hv⟩ | ⟨_, _, _, _, hv⟩
  · obtain ⟨hb, hl, hd, _⟩ := h (hv.symm.trans hvalid)
    refine ⟨hbubble.trans hb, hload.trans (hl.trans (congrArg isLoadOp hopcode.symm)),
      hdest.trans (hd.trans hoperand.symm), fun hisLoad _ => ?_⟩
    have hinstr := instr_of_isLoadOp (hl.symm.trans (hload.symm.trans hisLoad))
    rw [executedState, hinstr]
    exact ⟨rfl, rfl⟩
  · exact absurd (hv.symm.trans hvalid) (by decide)

theorem step_prConsistent {s t : State} (hp : PrConsistent s) (h : step s = .next t) : PrConsistent t :=
  step_stages h hp (fun _ => hp) (fun _ _ => hp) (fun _ _ _ => finishCycle_prConsistent (u := beginCycle s) rfl hp)
    (fun _ _ _ => finishCycle_prConsistent (executedState_stalled s) (executedState_prConsistent hp))

/-- R138: without forwarding nothing is answered. -/
theorem forward_of_disabled {s : State} (h : s.fwdEn = false) (req : Sel) : forward s req = none := by
  simp [forward, h]

/-- R137: with forwarding, a LOAD in PR that has executed answers a hazard on it. -/
theorem forward_of_hazard {s : State} {w : Word} (hp : PrConsistent s) (hx : toExecute s = false)
    (hf : s.fwdEn = true) (hz : hazard s w = true) : forward s s.pr.destReg = some s.pr.resultValue := by
  simp only [hazard, Bool.and_eq_true] at hz
  obtain ⟨⟨hvalid, hload⟩, _⟩ := hz
  have hexecuted : s.pr.executed = true := by simpa [toExecute, hvalid] using hx
  obtain ⟨_, _, _, hresult⟩ := hp hvalid
  obtain ⟨hproduces, hready⟩ := hresult hload hexecuted
  exact forward_of_ready ⟨hf, hvalid, hproduces, hready, rfl⟩

/-- R137, R139: a cycle whose execute step is done stalls on a hazard only without forwarding, and forwards only
with it. -/
theorem finishCycle_hazards_pure {u : State} (hs : u.out.stalled = false) (hp : PrConsistent u)
    (hx : toExecute u = false) :
    (u.fwdEn = true → (finishCycle u).ctr.hazardStalls = u.ctr.hazardStalls) ∧
    (u.fwdEn = false → (finishCycle u).ctr.forwards = u.ctr.forwards) := by
  rcases finishCycle_all_cases hs with ⟨_, e⟩ | ⟨_, _, e⟩ | ⟨_, _, _, e⟩ |
    ⟨w, _, _, _, _, ⟨_, e⟩ | ⟨v, _, hv, e⟩ | ⟨hz, hnone, e⟩⟩ <;> rw [e]
  · exact ⟨fun _ => rfl, fun _ => rfl⟩
  · exact ⟨fun _ => rfl, fun _ => rfl⟩
  · exact ⟨fun _ => rfl, fun _ => rfl⟩
  · exact ⟨fun _ => rfl, fun _ => rfl⟩
  · exact ⟨fun _ => rfl, fun hf => absurd (hv.symm.trans (forward_of_disabled hf _)) (by simp)⟩
  · exact ⟨fun hf => absurd (hnone.symm.trans (forward_of_hazard hp hx hf hz)) (by simp), fun _ => rfl⟩

theorem executedState_hazard_counters (s : State) :
    (executedState s).ctr.hazardStalls = s.ctr.hazardStalls ∧ (executedState s).ctr.forwards = s.ctr.forwards ∧
    (executedState s).fwdEn = s.fwdEn := by
  obtain ⟨⟨hf, _⟩, _⟩ := after_keeps s.pr.instr (clearReady (beginCycle s))
  obtain ⟨_, _, hhazards, hforwards⟩ := after_counters s.pr.instr (clearReady (beginCycle s))
  exact ⟨hhazards, hforwards, hf⟩

/-- Settles O53: consistency is carried through the stages, and in it a hazard is resolved by `fwd_en` alone. -/
theorem stepKeepsPrConsistentAndHazardsPure : Obligations.StepKeepsPrConsistentAndHazardsPure := by
  intro s t hp h
  refine ⟨step_prConsistent hp h, ?_⟩
  apply step_stages h
  · exact ⟨fun _ => rfl, fun _ => rfl⟩
  · exact fun _ => ⟨fun _ => rfl, fun _ => rfl⟩
  · exact fun _ _ => ⟨fun _ => rfl, fun _ => rfl⟩
  · intro _ _ hx
    exact finishCycle_hazards_pure (u := beginCycle s) rfl hp hx
  · intro _ _ _
    obtain ⟨hhazards, hforwards, hf⟩ := executedState_hazard_counters s
    rw [← hhazards, ← hforwards, ← hf]
    exact finishCycle_hazards_pure (executedState_stalled s) (executedState_prConsistent hp) (toExecute_executedState s)

/-! ## The flow of instructions -/

theorem halted_eq_false_of_toExecute {s : State} (hd : HaltedDrained s) (hx : toExecute s = true) :
    s.halted = false := by
  simp only [toExecute, Bool.and_eq_true] at hx
  exact Bool.eq_false_iff.mpr fun hh => absurd ((hd hh).symm.trans hx.1) (by decide)

/-- A cycle that passes its step 3 with `halted` set drains (R134). -/
theorem finishCycle_haltedDrained {u : State} (hs : u.out.stalled = false)
    (hstall : u.out.stall ≠ 0#3 → u.halted = false) : HaltedDrained (finishCycle u) := by
  intro hh
  rw [finishCycle_halted] at hh
  rcases finishCycle_pr_cases hs with ⟨_, _, hstalls | hrun⟩ | ⟨_, hpr⟩ | ⟨_, hrun, _⟩
  · exact absurd ((hstall hstalls).symm.trans hh) (by decide)
  · exact absurd (hrun.symm.trans hh) (by decide)
  · exact hpr
  · exact absurd (hrun.symm.trans hh) (by decide)

/-- An instruction that stalls is no HALT. -/
theorem executedState_halted_of_stall {s : State} (hd : HaltedDrained s) (hx : toExecute s = true)
    (hstall : (executedState s).out.stall ≠ 0#3) : (executedState s).halted = false := by
  have hrun : (clearReady (beginCycle s)).halted = false := halted_eq_false_of_toExecute hd hx
  rcases after_stall_cases s.pr.instr (clearReady (beginCycle s)) with ⟨hzero, _⟩ | ⟨_, _, _, _, hh⟩
  · exact absurd hzero hstall
  · exact hh.trans hrun

theorem step_haltedDrained {s t : State} (hd : HaltedDrained s) (h : step s = .next t) : HaltedDrained t := by
  refine step_stages h hd (fun _ => hd) (fun _ _ => hd) (fun _ _ _ => ?_) (fun _ _ hx => ?_)
  · exact finishCycle_haltedDrained (u := beginCycle s) rfl fun hstall => absurd rfl hstall
  · exact finishCycle_haltedDrained (executedState_stalled s) (executedState_halted_of_stall hd hx)

theorem finishCycle_latchedFromMemory {u : State} (hs : u.out.stalled = false) (hx : toExecute u = false) :
    LatchedFromMemory (finishCycle u) := by
  intro hexec
  rcases finishCycle_pr_cases hs with ⟨_, hpr, _⟩ | ⟨_, hpr⟩ | ⟨_, _, _, hpr⟩
  · simp only [toExecute, hpr] at hexec hx
    exact absurd (hx.symm.trans hexec) (by decide)
  · simp [toExecute, hpr] at hexec
  · rw [hpr, finishCycle_mem, latch_pc]

theorem step_latchedFromMemory {s t : State} (hl : LatchedFromMemory s) (h : step s = .next t) :
    LatchedFromMemory t :=
  step_stages h hl (fun _ => hl) (fun _ _ => hl)
    (fun _ _ hx => finishCycle_latchedFromMemory (u := beginCycle s) rfl hx)
    (fun _ _ _ => finishCycle_latchedFromMemory (executedState_stalled s) (toExecute_executedState s))

/-- Settles O54: each of the five parts is kept by a step. -/
theorem stepKeepsTheFlowInvariant : Obligations.StepKeepsTheFlowInvariant :=
  fun _ _ ⟨hc, hidle, hpc, hd, hl⟩ h =>
    ⟨step_coherent hc hidle h, step_cacheIdle hidle h, step_pcFollowsPr hpc h, step_haltedDrained hd h,
      step_latchedFromMemory hl h⟩

end Sys2Proof.Proofs

/-! PROOFS. The pipeline and the sequential machine (20_memory.md R57, 43_pipeline_cycle.md R144, R165): the execute
step of an instruction is that instruction of the sequential machine, and the rest of a cycle is invisible to it. -/

namespace Sys2Proof.Proofs

open Sys2Proof Sys2Proof.Machine Sys2Proof.Laws

/-! ## What a state shows between two instructions -/

/-- The view of a state with nothing left to execute: the next instruction is the one at `pc`. -/
def flowView (s : State) : View := { view s with next := s.pc }

theorem view_of_not_toExecute {s : State} (h : toExecute s = false) : view s = flowView s := by
  simp [flowView, view, h]

theorem flowView_dataRead (s : State) (a : Addr) : flowView (dataRead s a).state = flowView s := by
  rcases dataRead_cases s a with ⟨_, e⟩ | ⟨_, _, e⟩ | ⟨_, _, e⟩ <;> rw [e] <;> rfl

theorem flowView_dataWrite (s : State) (a : Addr) (v : Byte) :
    flowView (dataWrite s a v).state = { flowView s with mem := memWrite s.mem a v } := by
  rcases dataWrite_cases s a v with ⟨_, e⟩ | ⟨_, _, e⟩ | ⟨_, _, e⟩ <;> rw [e] <;> rfl

theorem flowView_finishLoad (r : Sel) (acc : Access) :
    flowView (finishLoad r acc) = { (flowView acc.state).setReg r acc.data with mdr := acc.data } := rfl

/-- With a coherent cache an instruction does to the view what it does in the sequential machine. -/
theorem flowView_after (i : Instr) {s : State} (hc : Coherent s) :
    flowView (after i s) = seqExec s.params.subCarry i (flowView s) := by
  cases i with
  | load r a =>
    have hdata : (dataRead (setMar s a) a).data = memRead s.mem a := dataRead_data_of_coherent (s := setMar s a) hc a
    rw [after_load, flowView_finishLoad, flowView_dataRead, hdata]
    rfl
  | store r a => exact flowView_dataWrite (setMdr (setMar s a) (readReg s r)) a (readReg s r)
  | _ => rfl

/-! ## Noninterference -/

/-- What an instruction does to registers, memory and flags it does from these alone. -/
theorem seqExec_congr (sense : SubCarry) (i : Instr) {v w : View} (hr : v.regs = w.regs) (hm : v.mem = w.mem)
    (hz : v.z = w.z) (hcarry : v.c = w.c) :
    (seqExec sense i v).regs = (seqExec sense i w).regs ∧ (seqExec sense i v).mem = (seqExec sense i w).mem ∧
    (seqExec sense i v).z = (seqExec sense i w).z ∧ (seqExec sense i v).c = (seqExec sense i w).c := by
  cases i <;> simp [seqExec, View.setReg, View.nibble, View.reg, hr, hm, hz, hcarry]

/-- Settles O45: where the caches are coherent both states do what the sequential machine does. -/
theorem programsCannotSeeHiddenState : Obligations.ProgramsCannotSeeHiddenState := by
  intro i s t s' t' hs ht hr hm hz hcarry hsense hs' ht'
  obtain rfl : after i s = s' := by simpa [exec_eq] using hs'
  obtain rfl : after i t = t' := by simpa [exec_eq] using ht'
  obtain ⟨hregs, hmem, hzero, hflag⟩ :=
    seqExec_congr s.params.subCarry i (v := flowView s) (w := flowView t) hr hm hz hcarry
  rw [← flowView_after i hs, hsense, ← flowView_after i ht] at hregs hmem hzero hflag
  exact ⟨hregs, hmem, hzero, hflag⟩

/-! ## One step -/

/-- The view with one instruction more counted. -/
def counted (v : View) : View := { v with instructions := v.instructions + 1 }

theorem seqExec_counted (sense : SubCarry) (i : Instr) (v : View) :
    seqExec sense i (counted v) = counted (seqExec sense i v) := by
  cases i <;> rfl

theorem flowView_retire (u : State) : flowView (retire u) = counted (flowView u) := rfl

theorem flowView_executedState {s : State} (hc : Coherent s) :
    flowView (executedState s) = seqExec s.params.subCarry s.pr.instr (counted (flowView s)) := by
  rw [executedState, flowView_retire, flowView_after s.pr.instr (s := clearReady (beginCycle s)) hc, seqExec_counted]
  rfl

theorem setWidth_setWidth_of_lt {p : PcWord} (h : p.toNat < 256) : (p.setWidth 8).setWidth 9 = p := by
  apply BitVec.eq_of_toNat_eq
  rw [setWidth_toNat, pc_setWidth_toNat h]

theorem setWidth_setWidth (a : Addr) : (a.setWidth 9).setWidth 8 = a := by
  apply BitVec.eq_of_toNat_eq
  rw [pc_setWidth_toNat, setWidth_toNat]
  rw [setWidth_toNat]
  exact a.isLt

/-- Steps 3 to 6 are invisible: an instruction they latch is the one at `pc`. -/
theorem view_finishCycle {u : State} (hs : u.out.stalled = false) (hx : toExecute u = false) :
    view (finishCycle u) = flowView u := by
  have hnext : (view (finishCycle u)).next = u.pc := by
    rcases finishCycle_pr_cases hs with ⟨hpc, hpr, _⟩ | ⟨hpc, hpr⟩ | ⟨hlt, _, _, hpr⟩
    · simp only [toExecute] at hx
      simp [view, toExecute, hpr, hx, hpc]
    · simp [view, toExecute, hpr, hpc]
    · simp only [view, toExecute, hpr, latch_valid, latch_executed, latch_pc]
      exact setWidth_setWidth_of_lt hlt
  obtain ⟨_, hinstructions, hflushes, _⟩ := finishCycle_counters u
  simp only [view] at hnext
  simp [view, flowView, hnext, hinstructions, hflushes]

/-- Where an instruction is to execute the sequential machine is at that instruction. -/
theorem seqStep_view {s : State} (hinv : FlowInv s) (hx : toExecute s = true) (sense : SubCarry) :
    seqStep sense (view s) = seqExec sense s.pr.instr (counted (flowView s)) := by
  obtain ⟨_, _, hpc, hd, hl⟩ := hinv
  have hrun : ¬ (view s).halted = true := Bool.eq_false_iff.mp (halted_eq_false_of_toExecute hd hx)
  have hnext : (view s).next = s.pr.pc.setWidth 9 := by simp [view, hx]
  have hvalid : s.pr.valid = true := by simp_all [toExecute]
  have hlt : (s.pr.pc.setWidth 9).toNat < 256 := by
    rw [setWidth_toNat]
    exact s.pr.pc.isLt
  have hadvance : s.pr.pc.setWidth 9 + 1#9 = s.pc := by
    apply BitVec.eq_of_toNat_eq
    rw [pc_add_one hlt, setWidth_toNat, hpc hvalid]
  have hdecode : decode (cellAt s.mem s.pr.pc) = s.pr.instr := by
    conv_rhs => rw [hl hx]
    rfl
  have hfetch : memFetch (view s).mem (view s).next = some (cellAt s.mem s.pr.pc) := by
    rw [hnext, memFetch_some _ hlt, setWidth_setWidth]
    rfl
  simp only [seqStep, if_neg hrun, hfetch]
  rw [hnext, hadvance, hdecode]
  rfl

/-- The step of an executing state, in the sequential machine. -/
theorem view_step_executing {s : State} (hinv : FlowInv s) (hx : toExecute s = true) :
    view (finishCycle (executedState s)) = seqStep s.params.subCarry (view s) := by
  have hc : Coherent s := hinv.1
  rw [view_finishCycle (executedState_stalled s) (toExecute_executedState s), flowView_executedState hc,
    seqStep_view hinv hx]

/-- Settles O59: a step is invisible or executes, and then the execute step is the sequential machine's. -/
theorem pipelineRefinesTheSequentialMachine : Obligations.PipelineRefinesTheSequentialMachine := by
  intro s t hinv h
  rcases step_cases h with ⟨hs, rfl⟩ | ⟨_, hcap, rfl⟩ | ⟨_, _, hg, rfl⟩ | ⟨_, _, _, hx, rfl⟩ | ⟨hs, hcap, hg, hx, rfl⟩
  · exact .inl ⟨executing_eq_false (.inl hs), rfl⟩
  · exact .inl ⟨executing_eq_false (.inr (.inl hcap)), rfl⟩
  · exact .inl ⟨executing_eq_false (.inr (.inr (.inl hg))), rfl⟩
  · refine .inl ⟨executing_eq_false (.inr (.inr (.inr hx))), ?_⟩
    rw [view_finishCycle (u := beginCycle s) rfl hx, view_of_not_toExecute hx]
    rfl
  · exact .inr ⟨(executing_iff s).mpr ⟨hs, hcap, hg, hx⟩, view_step_executing hinv hx⟩

end Sys2Proof.Proofs

/-! PROOFS. Reset and runs (70_reset_and_hazards.md, 43_pipeline_cycle.md R150, R151, R163, R165): the values after
reset, the image of the loader, how every run ends, the cycle-count law, and the independence of the configuration. -/

namespace Sys2Proof.Proofs

open Sys2Proof Sys2Proof.Machine Sys2Proof.Laws

/-! ## Reset -/

section Reset

variable (f c : Bool) (image : Memory) (p : Params)

theorem readReg_resetWith (q : Sel) : readReg (State.resetWith f c image p) q = 0#8 := by
  simp [readReg, State.resetWith]

theorem lineAt_resetWith (i : BitVec 3) : lineAt (State.resetWith f c image p) i = CacheLine.fresh := by
  simp [lineAt, State.resetWith]

theorem resetWith_cacheIdle : CacheIdle (State.resetWith f c image p) :=
  fun _ => ⟨lineAt_resetWith f c image p, rfl, rfl, rfl, rfl⟩

theorem resetWith_flowInv : FlowInv (State.resetWith f c image p) := by
  refine ⟨coherent_of_fresh (lineAt_resetWith f c image p), resetWith_cacheIdle f c image p, fun hvalid => ?_,
    fun _ => rfl, fun hexec => ?_⟩
  · exact absurd hvalid Bool.false_ne_true
  · exact absurd hexec Bool.false_ne_true

end Reset

/-- Settles O46: the values are those reset writes. -/
theorem resetLeavesTheTableOfValues : Obligations.ResetLeavesTheTableOfValues := by
  rintro f c image p _ rfl
  exact ⟨readReg_resetWith f c image p, rfl, rfl, rfl, rfl, rfl, rfl, rfl, rfl, rfl, rfl,
    lineAt_resetWith f c image p, rfl, rfl, fun _ => rfl, rfl⟩

/-- Settles O55: PR is empty, the lines are fresh and the counters 0. -/
theorem resetMeetsTheInvariants : Obligations.ResetMeetsTheInvariants := by
  rintro f c image p _ rfl
  exact ⟨resetWith_flowInv f c image p, Nat.zero_le 256, rfl, Nat.zero_le 4, prConsistent_of_invalid rfl, id,
    reset_mem_wf⟩

/-! ## The image -/

/-- The image the loader makes of records over an earlier one. -/
theorem cellAt_foldl_placeCell_other (rs : List LoaderRecord) (m : Memory) {a : Addr} (h : ∀ r ∈ rs, r.addr ≠ a) :
    cellAt (rs.foldl (fun m r => placeCell m r.addr r.cell) m) a = cellAt m a := by
  induction rs generalizing m with
  | nil => rfl
  | cons r rs ih =>
    have hr : a ≠ r.addr := (h r (by simp)).symm
    rw [List.foldl_cons, ih _ fun q hq => h q (by simp [hq]), cellAt_placeCell_other m _ hr]

theorem foldl_placeCell_wf (rs : List LoaderRecord) {m : Memory} (hm : Memory.wf m = true) :
    Memory.wf (rs.foldl (fun m r => placeCell m r.addr r.cell) m) = true := by
  induction rs generalizing m with
  | nil => exact hm
  | cons r rs ih => exact ih (placeCell_wf r.addr r.cell hm)

/-- A cell of the empty memory is `0x0000` (R36, R49). -/
theorem cellAt_nil (a : Addr) : cellAt [] a = 0#16 := by
  simp [cellAt, Memory.readKey, unfilledByte]

/-- Settles O48: a record places its cell, and the records after it place others. -/
theorem imageHoldsTheLoaderRecords : Obligations.ImageHoldsTheLoaderRecords := by
  refine ⟨fun rs a h => (cellAt_foldl_placeCell_other rs [] h).trans (cellAt_nil a), fun rs rs' r h => ?_,
    fun r hr => ⟨?_, ?_⟩, fun rs => foldl_placeCell_wf rs rfl⟩
  · rw [imageOf, List.foldl_append, List.foldl_cons, cellAt_foldl_placeCell_other rs' _ h, cellAt_placeCell_same]
  · rw [immOf, LoaderRecord.cell, extract_low_byte, hr]
    rfl
  · exact extract_high_byte _ _

/-! ## Ended runs -/

theorem step_of_stuck {s : State} (h : stuck s = true) : step s = .next s := by
  simp [step, runLoopStep, h]

theorem stepN_of_stuck {s : State} (h : stuck s = true) (k : Nat) : stepN k s = .next s := by
  induction k with
  | zero => rfl
  | succ k ih => rw [stepN_succ (step_of_stuck h), ih]

theorem fault_of_not_stuck {s : State} (h : stuck s = false) : s.fault = none := ((stuck_eq_false_iff s).mp h).1

theorem step_at_cap {s : State} (h : stuck s = false) (hcap : s.params.maxCycles ≤ s.ctr.cycles) :
    step s = .next (raise (.nonTermination s.ctr.cycles) s) := by
  simp [step, runLoopStep, h, hcap]

theorem stuck_of_fault {s : State} {e : Fault} (h : s.fault = some e) : stuck s = true := by
  simp [stuck, h]

theorem stuck_of_terminated {s : State} (h : terminated s = true) : stuck s = true := by
  simp [stuck, h]

/-- Settles O36: a stuck state answers itself, and the raised condition makes the state stuck. -/
theorem endedRunsStayAndTheCapIsRaised : Obligations.EndedRunsStayAndTheCapIsRaised := by
  refine ⟨fun s k h => stepN_of_stuck h k, fun s h hcap => ?_⟩
  have hstep := step_at_cap h hcap
  refine ⟨hstep, fun k => ?_⟩
  rw [stepN_succ hstep]
  exact stepN_of_stuck (stuck_of_fault (raise_fault _ s)) k

/-! ## How a run ends -/

theorem terminated_iff (s : State) :
    terminated s = true ↔ s.halted = true ∧ s.pr.valid = false ∧ s.fault = none := by
  simp [terminated, and_assoc]

theorem step_next (s : State) : ∃ t, step s = .next t := by
  by_cases hs : stuck s = true
  · exact ⟨s, step_of_stuck hs⟩
  · by_cases hcap : s.params.maxCycles ≤ s.ctr.cycles
    · exact ⟨_, step_at_cap (by simpa using hs) hcap⟩
    · exact ⟨_, by simp only [step, runLoopStep, hs, hcap, if_false, cycle_eq, Bool.false_eq_true]; rfl⟩

theorem executedState_cycles (s : State) : (executedState s).ctr.cycles = s.ctr.cycles + 1 :=
  (after_counters s.pr.instr (clearReady (beginCycle s))).1

/-- A step of a state that is not stuck below the cap counts one cycle. -/
theorem step_cycles {s t : State} (hs : stuck s = false) (hcap : s.ctr.cycles < s.params.maxCycles)
    (h : step s = .next t) : t.ctr.cycles = s.ctr.cycles + 1 := by
  rcases step_cases h with ⟨hst, _⟩ | ⟨_, hc, _⟩ | ⟨_, _, _, rfl⟩ | ⟨_, _, _, _, rfl⟩ | ⟨_, _, _, _, rfl⟩
  · exact absurd (hs.symm.trans hst) (by decide)
  · omega
  · rfl
  · exact (finishCycle_counters (beginCycle s)).1
  · exact (finishCycle_counters (executedState s)).1.trans (executedState_cycles s)

/-- R171: the condition after steps 3 to 6 is the one before or that of a fetch past the end. -/
theorem finishCycle_fault {u : State} (hs : u.out.stalled = false) :
    (finishCycle u).fault = u.fault ∨
      256 ≤ u.pc.toNat ∧ (finishCycle u).fault = some (.outOfBounds .fetch u.pc.toNat) := by
  rcases finishCycle_all_cases hs with ⟨_, e⟩ | ⟨_, _, e⟩ | ⟨_, _, hpc, e⟩ |
    ⟨w, _, _, _, _, ⟨_, e⟩ | ⟨v, _, _, e⟩ | ⟨_, _, e⟩⟩
  · exact .inl (by rw [e]; rfl)
  · exact .inl (by rw [e]; rfl)
  · exact .inr ⟨hpc, by rw [e]; rfl⟩
  · exact .inl (by rw [e]; rfl)
  · exact .inl (by rw [e]; rfl)
  · exact .inl (by rw [e]; rfl)

theorem executedState_fault (s : State) : (executedState s).fault = s.fault := by
  obtain ⟨⟨_, _, _, hfault, _⟩, _⟩ := after_keeps s.pr.instr (clearReady (beginCycle s))
  exact hfault

/-- What is true of the cycles and the condition all through a run with the cap `cap`. -/
def EndInv (cap : Nat) (s : State) : Prop :=
  PcInRange s ∧ s.params.maxCycles = cap ∧ s.ctr.cycles ≤ cap ∧
  (s.fault = none ∨ s.fault = some (.outOfBounds .fetch 256) ∨
    (s.fault = some (.nonTermination cap) ∧ s.ctr.cycles = cap))

theorem finishCycle_fault_of_inRange {u : State} (hs : u.out.stalled = false) (hpc : PcInRange u)
    (hf : u.fault = none) :
    (finishCycle u).fault = none ∨ (finishCycle u).fault = some (.outOfBounds .fetch 256) := by
  unfold PcInRange at hpc
  rcases finishCycle_fault hs with hsame | ⟨hge, hraised⟩
  · exact .inl (hsame.trans hf)
  · rw [show u.pc.toNat = 256 by omega] at hraised
    exact .inr hraised

theorem step_endInv {cap : Nat} {s t : State} (hinv : EndInv cap s) (h : step s = .next t) : EndInv cap t := by
  have ⟨hpc, hparams, hle, hfault⟩ := hinv
  refine ⟨step_pcInRange hpc h, (congrArg Params.maxCycles (step_params h)).trans hparams, ?_⟩
  have hnone : stuck s = false → s.fault = none := fault_of_not_stuck
  rcases step_cases h with ⟨_, rfl⟩ | ⟨hs, hc, rfl⟩ | ⟨hs, hc, _, rfl⟩ | ⟨hs, hc, _, _, rfl⟩ | ⟨hs, hc, _, _, rfl⟩
  · exact ⟨hle, hfault⟩
  · have hcap : s.ctr.cycles = cap := by omega
    exact ⟨hle, .inr (.inr ⟨by rw [raise_fault, hcap], hcap⟩)⟩
  · exact ⟨by simp only [gateCycle_ctr, beginCycle_ctr]; omega, .inl (hnone hs)⟩
  · refine ⟨by rw [step_cycles hs hc h]; omega, ?_⟩
    rcases finishCycle_fault_of_inRange (u := beginCycle s) rfl hpc (hnone hs) with hf | hf
    · exact .inl hf
    · exact .inr (.inl hf)
  · refine ⟨by rw [step_cycles hs hc h]; omega, ?_⟩
    rcases finishCycle_fault_of_inRange (executedState_stalled s) (executedState_pcInRange hpc)
      ((executedState_fault s).trans (hnone hs)) with hf | hf
    · exact .inl hf
    · exact .inr (.inl hf)

/-- One step more than the cycles left under the cap reaches the end. -/
theorem stepN_ends (k : Nat) : ∀ s : State, s.params.maxCycles < s.ctr.cycles + k →
    ∃ t, stepN k s = .next t ∧ (k ≠ 0 → stuck t = true) := by
  induction k with
  | zero => exact fun s _ => ⟨s, rfl, fun h => absurd rfl h⟩
  | succ k ih =>
    intro s hk
    by_cases hs : stuck s = true
    · exact ⟨s, stepN_of_stuck hs _, fun _ => hs⟩
    have hs : stuck s = false := by simpa using hs
    by_cases hcap : s.params.maxCycles ≤ s.ctr.cycles
    · have hstuck : stuck (raise (.nonTermination s.ctr.cycles) s) = true := stuck_of_fault (raise_fault _ s)
      exact ⟨_, (stepN_succ (step_at_cap hs hcap)).trans (stepN_of_stuck hstuck k), fun _ => hstuck⟩
    · obtain ⟨u, hu⟩ := step_next s
      have hcycles := step_cycles hs (by omega) hu
      have hparams := congrArg Params.maxCycles (step_params hu)
      obtain ⟨t, ht, hstuck⟩ := ih u (by omega)
      exact ⟨t, (stepN_succ hu).trans ht, fun _ => hstuck (by omega)⟩

/-- Settles O57: the run reaches a stuck state, and its condition is one of the three. -/
theorem everyRunEndsInOneOfThreeWays : Obligations.EveryRunEndsInOneOfThreeWays := by
  intro f c image p
  obtain ⟨t, ht, hstuck⟩ := stepN_ends (p.maxCycles + 1) (State.resetWith f c image p) (by simp [State.resetWith])
  have hreset : EndInv p.maxCycles (State.resetWith f c image p) :=
    ⟨Nat.zero_le 256, rfl, Nat.zero_le _, .inl rfl⟩
  obtain ⟨_, _, hle, hfault⟩ := stepN_keeps (fun _ _ => step_endInv) _ _ t hreset ht
  have hstuck := hstuck (by omega)
  refine ⟨t, ht, hstuck, hle, ?_⟩
  rcases hfault with hf | hf | ⟨hf, hcap⟩
  · exact .inl ⟨by simpa [stuck, hf] using hstuck, hf⟩
  · exact .inr (.inl ⟨by simp [terminated, hf], hf⟩)
  · exact .inr (.inr ⟨by simp [terminated, hf], hf, hcap⟩)

/-! ## The cycle-count law -/

/-- The cycles still to come before the next instruction executes: the countdown, and one that executes nothing. -/
def cyclesOwed (s : State) : Nat :=
  if s.halted = true then 0 else s.cacheStallRemaining.toNat + if toExecute s = true then 0 else 1

/-- The counters of a run that has not faulted: every instruction takes one cycle, every bubble one and every miss
five, and one latches the first instruction. -/
def CycleLaw (s : State) : Prop :=
  s.fault = none →
    s.ctr.cycles + cyclesOwed s = 1 + s.ctr.instructions + s.ctr.hazardStalls + 5 * s.ctr.cacheMisses

theorem halted_eq_false_of_running {s : State} (hd : HaltedDrained s) (hs : stuck s = false) : s.halted = false := by
  obtain ⟨_, hrun | hvalid⟩ := (stuck_eq_false_iff s).mp hs
  · exact hrun
  · exact Bool.eq_false_iff.mpr fun hh => absurd ((hd hh).symm.trans hvalid) (by decide)

theorem cyclesOwed_of_running {s : State} (hrun : s.halted = false) :
    cyclesOwed s = s.cacheStallRemaining.toNat + if toExecute s = true then 0 else 1 := by
  rw [cyclesOwed, if_neg (by simp [hrun])]

/-- Steps 3 to 6 count a bubble for the one cycle more it takes, and owe the cycles of a stall. -/
theorem finishCycle_cyclesOwed {u : State} (hs : u.out.stalled = false) (hx : toExecute u = false)
    (hgate : u.cacheStallRemaining = 0#3) (hstall : u.out.stall ≠ 0#3 → u.halted = false)
    (hfault : (finishCycle u).fault = none) :
    cyclesOwed (finishCycle u) + u.ctr.hazardStalls = (finishCycle u).ctr.hazardStalls +
      if u.out.stall = 0#3 then 0 else u.out.stall.toNat + 1 := by
  rcases finishCycle_all_cases hs with ⟨h, e⟩ | ⟨h, hh, e⟩ | ⟨_, _, _, e⟩ |
    ⟨w, h, hh, _, _, ⟨_, e⟩ | ⟨v, _, _, e⟩ | ⟨_, _, e⟩⟩
  · have hx' : toExecute (recordStall u) = false := hx
    rw [e, cyclesOwed_of_running (by exact hstall h), if_neg h, hx', recordStall_cacheStallRemaining]
    simp only [recordStall_ctr, Bool.false_eq_true, if_false]
    omega
  · rw [e, if_pos h, cyclesOwed, if_pos (by exact hh)]
    simp
  · rw [e] at hfault
    exact absurd hfault (by simp)
  · rw [e, if_pos h, cyclesOwed_of_running (by exact hh)]
    simp [toExecute, hgate]
  · rw [e, if_pos h, cyclesOwed_of_running (by exact hh)]
    simp [toExecute, hgate]
  · rw [e, if_pos h, cyclesOwed_of_running (by exact hh)]
    simp [toExecute, hgate]
    omega

theorem executedState_instructions (s : State) : (executedState s).ctr.instructions = s.ctr.instructions + 1 := by
  obtain ⟨_, hinstructions, _⟩ := after_counters s.pr.instr (clearReady (beginCycle s))
  exact congrArg (· + 1) hinstructions

/-- The stall of an execute step and the misses counted with it. -/
theorem executedState_stall_cases (s : State) :
    ((executedState s).out.stall = 0#3 ∧ (executedState s).ctr.cacheMisses = s.ctr.cacheMisses) ∨
    ((executedState s).out.stall = 4#3 ∧ (executedState s).ctr.cacheMisses = s.ctr.cacheMisses + 1) := by
  rcases after_stall_cases s.pr.instr (clearReady (beginCycle s)) with ⟨hstall, hm, _⟩ | ⟨hstall, hm, _⟩
  · exact .inl ⟨hstall, hm⟩
  · exact .inr ⟨hstall, hm⟩

theorem step_cycleLaw {s t : State} (hd : HaltedDrained s) (hlaw : CycleLaw s) (h : step s = .next t) :
    CycleLaw t := by
  have howed (hs : stuck s = false) := hlaw (fault_of_not_stuck hs)
  have hrun (hs : stuck s = false) := halted_eq_false_of_running hd hs
  apply step_stages h hlaw
  · intro _ hfault
    exact absurd hfault (by simp)
  · intro hs hgate _
    have := howed hs
    have hdown := countdown_sub_one hgate
    have hx : toExecute (gateCycle (beginCycle s)) = toExecute s := rfl
    rw [cyclesOwed_of_running (hrun hs)] at this
    rw [cyclesOwed_of_running (by exact hrun hs), hx]
    simp only [gateCycle_ctr, gateCycle_cacheStallRemaining, beginCycle_ctr, beginCycle_cacheStallRemaining]
    omega
  · intro hs hgate hx hfault
    have := howed hs
    rw [cyclesOwed_of_running (hrun hs), hgate, hx] at this
    have hfinish := finishCycle_cyclesOwed (u := beginCycle s) rfl hx hgate (fun hstall => absurd rfl hstall) hfault
    obtain ⟨hcycles, hinstructions, _, _, hmisses, _⟩ := finishCycle_counters (beginCycle s)
    simp only [beginCycle_ctr, beginCycle_out, clear_stall, if_true] at hfinish hcycles hinstructions hmisses
    simp only [Bool.false_eq_true, if_false, BitVec.toNat_ofNat] at this
    omega
  · intro hs hgate hx hfault
    have := howed hs
    rw [cyclesOwed_of_running (hrun hs), hgate, hx] at this
    have hfinish := finishCycle_cyclesOwed (executedState_stalled s) (toExecute_executedState s)
      ((executedState_countdown s).trans hgate) (executedState_halted_of_stall hd hx) hfault
    obtain ⟨hcycles, hinstructions, _, _, hmisses, _⟩ := finishCycle_counters (executedState s)
    rw [executedState_cycles] at hcycles
    rw [executedState_instructions] at hinstructions
    rw [(executedState_hazard_counters s).1] at hfinish
    simp only [if_true, BitVec.toNat_ofNat] at this
    rcases executedState_stall_cases s with ⟨hstall, hcount⟩ | ⟨hstall, hcount⟩
    · rw [hstall, if_pos rfl] at hfinish
      omega
    · rw [hstall, if_neg (by decide), BitVec.toNat_ofNat] at hfinish
      omega

/-- The cycle law with what it rests on, in every state of a run. -/
theorem run_cycleLaw {f c : Bool} {image : Memory} {p : Params} {k : Nat} {t : State}
    (h : stepN k (State.resetWith f c image p) = .next t) :
    HaltedDrained t ∧ CycleLaw t ∧ MissAccounting t :=
  stepN_keeps (P := fun s => HaltedDrained s ∧ CycleLaw s ∧ MissAccounting s)
    (fun _ _ ⟨hd, hlaw, hm⟩ hstep =>
      ⟨step_haltedDrained hd hstep, step_cycleLaw hd hlaw hstep, step_missAccounting hm hstep⟩)
    k (State.resetWith f c image p) t ⟨fun _ => rfl, fun _ => rfl, rfl⟩ h

/-- Settles O58: a terminated state owes no cycle. -/
theorem cycleCountLaw : Obligations.CycleCountLaw := by
  intro f c image p k t h hterm
  obtain ⟨hhalted, _, hfault⟩ := (terminated_iff t).mp hterm
  obtain ⟨_, hlaw, hm⟩ := run_cycleLaw h
  have hlaw := hlaw hfault
  rw [cyclesOwed, if_pos hhalted] at hlaw
  unfold MissAccounting at hm
  omega

/-! ## Two runs of one image -/

/-- `n` instructions of the sequential machine. -/
def seqRun (sense : SubCarry) : Nat → View → View
  | 0, v => v
  | n + 1, v => seqStep sense (seqRun sense n v)

theorem seqStep_of_halted (sense : SubCarry) {v : View} (h : v.halted = true) : seqStep sense v = v := if_pos h

/-- The sequential machine stays where it has halted. -/
theorem seqRun_of_halted {sense : SubCarry} {v : View} {n m : Nat} (hle : n ≤ m)
    (h : (seqRun sense n v).halted = true) : seqRun sense m v = seqRun sense n v := by
  induction m, hle using Nat.le_induction with
  | base => rfl
  | succ m _ ih => rw [seqRun, ih, seqStep_of_halted sense h]

theorem seqRun_halted_unique {sense : SubCarry} {v : View} {n m : Nat} (hn : (seqRun sense n v).halted = true)
    (hm : (seqRun sense m v).halted = true) : seqRun sense n v = seqRun sense m v := by
  rcases Nat.le_total n m with hle | hle
  · exact (seqRun_of_halted hle hn).symm
  · exact seqRun_of_halted hle hm

/-- What every state of a run from `image` shows: a state of the sequential machine's run from it. -/
def ShowsSeqRun (image : Memory) (p : Params) (s : State) : Prop :=
  FlowInv s ∧ s.params = p ∧ ∃ n, view s = seqRun p.subCarry n (view (State.resetWith false false image p))

theorem step_showsSeqRun {image : Memory} {p : Params} {s t : State} (h : ShowsSeqRun image p s)
    (hstep : step s = .next t) : ShowsSeqRun image p t := by
  obtain ⟨hinv, hp, n, hn⟩ := h
  refine ⟨stepKeepsTheFlowInvariant s t hinv hstep, (step_params hstep).trans hp, ?_⟩
  rcases pipelineRefinesTheSequentialMachine s t hinv hstep with ⟨_, hsame⟩ | ⟨_, hexec⟩
  · exact ⟨n, hsame.trans hn⟩
  · exact ⟨n + 1, by rw [hexec, hn, hp]; rfl⟩

/-- R165: reset shows the same in every configuration, and so does the run from it. -/
theorem run_view {f c : Bool} {image : Memory} {p : Params} {k : Nat} {t : State}
    (h : stepN k (State.resetWith f c image p) = .next t) :
    ∃ n, view t = seqRun p.subCarry n (view (State.resetWith false false image p)) := by
  have hreset : ShowsSeqRun image p (State.resetWith f c image p) := ⟨resetWith_flowInv f c image p, rfl, 0, rfl⟩
  obtain ⟨_, _, hview⟩ := stepN_keeps (fun _ _ => step_showsSeqRun) k _ t hreset h
  exact hview

theorem view_of_terminated {t : State} (h : terminated t = true) :
    view t = flowView t ∧ (view t).halted = true := by
  obtain ⟨hhalted, hinvalid, _⟩ := (terminated_iff t).mp h
  exact ⟨view_of_not_toExecute (by simp [toExecute, hinvalid]), hhalted⟩

/-- Settles O60: both runs end in the one halted state of the sequential machine. -/
theorem valuesDoNotDependOnTheConfiguration : Obligations.ValuesDoNotDependOnTheConfiguration := by
  intro f c f' c' image p p' k k' t t' hsense h hterm h' hterm'
  obtain ⟨n, hn⟩ := run_view h
  obtain ⟨n', hn'⟩ := run_view h'
  obtain ⟨hflow, hhalted⟩ := view_of_terminated hterm
  obtain ⟨hflow', hhalted'⟩ := view_of_terminated hterm'
  have hreset : view (State.resetWith false false image p') = view (State.resetWith false false image p) := rfl
  rw [← hsense, hreset] at hn'
  rw [hn] at hhalted
  rw [hn'] at hhalted'
  have hview : flowView t = flowView t' := by
    rw [← hflow, ← hflow', hn, hn']
    exact seqRun_halted_unique hhalted hhalted'
  simp only [flowView, view, View.mk.injEq] at hview
  obtain ⟨hregs, hmem, hz, hcarry, hmar, hmdr, _, hpc, hinstructions, hflushes⟩ := hview
  exact ⟨hregs, hmem, hz, hcarry, hmar, hmdr, hpc, hinstructions, hflushes⟩

end Sys2Proof.Proofs

/-! PROOFS. Single cycles and short runs (43_pipeline_cycle.md): an equation for each way a cycle can go, then the
cycles of a fetch, a miss, a load-use pair, a jump, a halt, a store to the next cell, and a fetch past the end. -/

namespace Sys2Proof.Proofs

open Sys2Proof Sys2Proof.Machine Sys2Proof.Laws

/-! ## The three kinds of cycle -/

theorem step_executes {s : State} (h : executing s = true) : step s = .next (finishCycle (executedState s)) :=
  step_of_executing h

theorem step_gates {s : State} (h : running s = true) (hg : s.cacheStallRemaining ≠ 0#3) :
    step s = .next (gateCycle (beginCycle s)) := by
  obtain ⟨hs, hcap⟩ := (running_iff s).mp h
  simp [step, runLoopStep, cycle_eq, hs, Nat.not_le.mpr hcap, hg]

theorem step_idles {s : State} (h : running s = true) (hg : s.cacheStallRemaining = 0#3) (hx : toExecute s = false) :
    step s = .next (finishCycle (beginCycle s)) := by
  obtain ⟨hs, hcap⟩ := (running_iff s).mp h
  have hbegin : toExecute (beginCycle s) = false := hx
  simp [step, runLoopStep, cycle_eq, hs, Nat.not_le.mpr hcap, hg, hbegin]

theorem fault_of_executing {s : State} (h : executing s = true) : s.fault = none :=
  fault_of_not_stuck ((executing_iff s).mp h).1

theorem countdown_of_executing {s : State} (h : executing s = true) : s.cacheStallRemaining = 0#3 := by
  obtain ⟨_, _, hcountdown, _⟩ := (executing_iff s).mp h
  exact hcountdown

theorem executing_of_running {s : State} (h : running s = true) (hg : s.cacheStallRemaining = 0#3)
    (hx : toExecute s = true) : executing s = true := by
  simp [executing, h, hg, hx]

theorem stepN_add {m : Nat} (n : Nat) {s u : State} (h : stepN m s = .next u) : stepN (m + n) s = stepN n u := by
  induction m generalizing s with
  | zero =>
    obtain rfl : s = u := by simpa [stepN] using h
    rw [Nat.zero_add]
  | succ m ih =>
    obtain ⟨v, hv⟩ := step_next s
    rw [stepN_succ hv] at h
    rw [Nat.add_right_comm, stepN_succ hv, ih h]

/-! ## Steps 3 to 6, case by case -/

theorem finishCycle_of_stall {u : State} (h : u.out.stall ≠ 0#3) : finishCycle u = recordStall u := if_pos h

theorem finishCycle_of_halted {u : State} (h : u.out.stall = 0#3) (hh : u.halted = true) : finishCycle u = drain u := by
  simp [finishCycle, h, hh]

/-- R133, R134: step 3 has recorded no stall and the machine is not halted, so the cycle goes on to the fetch. -/
structure ReachesFetch (u : State) : Prop where
  stalled : u.out.stalled = false
  stall   : u.out.stall = 0#3
  halted  : u.halted = false

theorem ReachesFetch.finishCycle_eq {u : State} (h : ReachesFetch u) : finishCycle u = fetchSteps u := by
  simp [finishCycle, h.stall, h.halted]

theorem ReachesFetch.raises {u : State} (h : ReachesFetch u) (hpc : 256 ≤ u.pc.toNat) :
    finishCycle u = raise (.outOfBounds .fetch u.pc.toNat) u := by
  rw [h.finishCycle_eq, fetchSteps, (memFetch_none_iff _ _).mpr hpc]

theorem ReachesFetch.fetches {u : State} (h : ReachesFetch u) (hpc : u.pc.toNat < 256) {w : Word}
    (hw : w = cellAt u.mem (u.pc.setWidth 8)) : finishCycle u = advance (resolveHazard u w) w := by
  rw [h.finishCycle_eq, fetchSteps, memFetch_some _ hpc, hw]

theorem ReachesFetch.latches {u : State} (h : ReachesFetch u) (hpc : u.pc.toNat < 256) {w : Word}
    (hw : w = cellAt u.mem (u.pc.setWidth 8)) (hz : hazard u w = false) : finishCycle u = latchNext u w := by
  rw [h.fetches hpc hw, resolveHazard, hz]
  exact advance_going w h.stalled

theorem ReachesFetch.forwards {u : State} (h : ReachesFetch u) (hpc : u.pc.toNat < 256) {w : Word}
    (hw : w = cellAt u.mem (u.pc.setWidth 8)) (hz : hazard u w = true) {v : Byte}
    (hv : forward u u.pr.destReg = some v) : finishCycle u = latchNext (recordForward u v) w := by
  rw [h.fetches hpc hw, resolveHazard, if_pos hz, hv]
  exact advance_going w h.stalled

theorem ReachesFetch.bubbles {u : State} (h : ReachesFetch u) (hpc : u.pc.toNat < 256) {w : Word}
    (hw : w = cellAt u.mem (u.pc.setWidth 8)) (hz : hazard u w = true) (hv : forward u u.pr.destReg = none) :
    finishCycle u = insertBubble u := by
  rw [h.fetches hpc hw, resolveHazard, if_pos hz, hv]
  exact advance_stalled w rfl

theorem reachesFetch_beginCycle {s : State} (h : s.halted = false) : ReachesFetch (beginCycle s) := ⟨rfl, rfl, h⟩

theorem hazard_of_invalid {u : State} (h : u.pr.valid = false) (w : Word) : hazard u w = false := by
  simp [hazard, h]

theorem hazard_of_not_load {u : State} (h : u.pr.isLoad = false) (w : Word) : hazard u w = false := by
  simp [hazard, h]

theorem latches_latchNext {s u : State} (hpc : u.pc = s.pc) (hlt : s.pc.toNat < 256) (hs : u.out.stalled = false)
    (w : Word) : Latches s (latchNext u w) w := by
  refine ⟨?_, ?_, hs⟩
  · rw [latchNext_pr, hpc]
  · rw [latchNext_pc, hpc, pc_add_one hlt]

/-! ## The latched instruction -/

/-- Settles O24: the equation of an executing step, with the instruction named. -/
theorem stepRunsTheLatchedInstruction : Obligations.StepRunsTheLatchedInstruction := by
  rintro s i h rfl
  rw [step_executes h, exec_eq]
  rfl

/-- A cycle that finds PR holding nothing latches the cell at `pc`. -/
theorem step_latches {s : State} (h : running s = true) (hg : s.cacheStallRemaining = 0#3) (hv : s.pr.valid = false)
    (hh : s.halted = false) (hpc : s.pc.toNat < 256) :
    step s = .next (latchNext (beginCycle s) (cellAt s.mem (s.pc.setWidth 8))) := by
  have hx : toExecute s = false := by simp [toExecute, hv]
  rw [step_idles h hg hx]
  exact congrArg _ ((reachesFetch_beginCycle hh).latches hpc rfl (hazard_of_invalid (u := beginCycle s) hv _))

/-- A latched instruction is executed next, unless the cap is reached. -/
theorem executing_latchNext {s : State} (h : running s = true) (hg : s.cacheStallRemaining = 0#3)
    (hcap : s.ctr.cycles + 1 < s.params.maxCycles) (w : Word) :
    executing (latchNext (beginCycle s) w) = true := by
  have hfault : s.fault = none := fault_of_not_stuck ((running_iff s).mp h).1
  refine (executing_iff _).mpr ⟨(stuck_eq_false_iff _).mpr ⟨hfault, .inr rfl⟩, hcap, hg, rfl⟩

/-- Settles O25: the latch of the idle cycle, then the execute step of the next. -/
theorem fetchedWordExecutesInTheNextStep : Obligations.FetchedWordExecutesInTheNextStep := by
  rintro s i h hg hv hh hpc hcap rfl
  exact ⟨_, step_latches h hg hv hh hpc, rfl, pc_add_one hpc, rfl, fun _ => rfl, fun _ => rfl,
    stepRunsTheLatchedInstruction _ _ (executing_latchNext h hg hcap _) rfl⟩

theorem withFetchWord_eq (s : State) (w : Word) :
    s.withFetchWord 16 w.toNat = stageWord s (s.pc.setWidth 8) w := by
  rw [State.withFetchWord, Nat.mod_eq_of_lt w.isLt, BitVec.ofNat_toNat, BitVec.setWidth_eq]

theorem executing_stageWord (s : State) (a : Addr) (w : Word) : executing (stageWord s a w) = true := by
  refine (executing_iff _).mpr ⟨(stuck_eq_false_iff _).mpr ⟨rfl, .inr rfl⟩, ?_, rfl, rfl⟩
  exact lt_of_lt_of_le (Nat.lt_succ_self _) (le_max_right _ _)

/-- Settles O26: the staged state executes the word it was staged with. -/
theorem placedWordRunsInTheNextStep : Obligations.PlacedWordRunsInTheNextStep := by
  intro s w
  rw [withFetchWord_eq]
  have hexec := executing_stageWord s (s.pc.setWidth 8) w
  exact ⟨hexec, cellAt_placeCell_same _ _ _, stepRunsTheLatchedInstruction _ _ hexec rfl⟩

/-- Settles O47: reset leaves PR empty and `pc` 0, so the first cycle latches cell 0. -/
theorem firstCycleOnlyFetchesCellZero : Obligations.FirstCycleOnlyFetchesCellZero := by
  intro f c image p hcap
  have h : running (State.resetWith f c image p) = true := (running_iff _).mpr ⟨rfl, hcap⟩
  exact ⟨_, step_latches h rfl rfl rfl (by simp [State.resetWith]), rfl, rfl, rfl, readReg_resetWith f c image p,
    fun hcap' => executing_latchNext h rfl hcap' _⟩

/-! ## Gate cycles -/

/-- The state after `k` gate cycles (R131). -/
def afterGates (k : Nat) (s : State) : State :=
  { s with
    ctr := { s.ctr with cycles := s.ctr.cycles + k }
    cacheStallRemaining := BitVec.ofNat 3 (s.cacheStallRemaining.toNat - k)
    out := CycleOut.clear }

theorem gateCycle_beginCycle {s : State} (hg : s.cacheStallRemaining ≠ 0#3) :
    gateCycle (beginCycle s) = afterGates 1 s := by
  have hdown : s.cacheStallRemaining - 1#3 = BitVec.ofNat 3 (s.cacheStallRemaining.toNat - 1) := by
    have hone := countdown_sub_one hg
    rw [← hone, Nat.add_sub_cancel, BitVec.ofNat_toNat, BitVec.setWidth_eq]
  rw [afterGates, ← hdown]
  rfl

theorem afterGates_afterGates (k : Nat) (s : State) : afterGates k (afterGates 1 s) = afterGates (k + 1) s := by
  have hlt := s.cacheStallRemaining.isLt
  have hcount : (afterGates 1 s).cacheStallRemaining.toNat = s.cacheStallRemaining.toNat - 1 := by
    simp only [afterGates, BitVec.toNat_ofNat]
    omega
  simp only [afterGates] at hcount ⊢
  rw [hcount, Nat.sub_sub, Nat.add_comm 1 k, Nat.add_assoc, Nat.add_comm 1 k]

/-- A countdown runs for its number of cycles, where the cap is no nearer. -/
theorem stepN_afterGates (k : Nat) {s : State} (hs : stuck s = false)
    (hcap : s.ctr.cycles + (k + 1) ≤ s.params.maxCycles) (hk : k + 1 ≤ s.cacheStallRemaining.toNat) :
    stepN (k + 1) s = .next (afterGates (k + 1) s) := by
  induction k generalizing s with
  | zero =>
    have hg : s.cacheStallRemaining ≠ 0#3 := fun h0 => by simp [h0] at hk
    have hstep := step_gates ((running_iff s).mpr ⟨hs, by omega⟩) hg
    rw [stepN_succ hstep, gateCycle_beginCycle hg]
    rfl
  | succ k ih =>
    have hg : s.cacheStallRemaining ≠ 0#3 := fun h0 => by simp [h0] at hk
    have hstep := step_gates ((running_iff s).mpr ⟨hs, by omega⟩) hg
    rw [gateCycle_beginCycle hg] at hstep
    have hlt := s.cacheStallRemaining.isLt
    rw [stepN_succ hstep, ih (s := afterGates 1 s) hs, afterGates_afterGates]
    · simp only [afterGates]
      omega
    · simp only [afterGates, BitVec.toNat_ofNat]
      omega

/-- Settles O27: a gate cycle is `gateCycle` on the begun cycle, and up to four of them run down a countdown of 4. -/
theorem gateCyclesOnlyCountDown : Obligations.GateCyclesOnlyCountDown := by
  intro s h
  refine ⟨fun hg => step_gates h hg, fun hfour hcap k hk hk4 => ?_⟩
  obtain ⟨n, rfl⟩ : ∃ n, k = n + 1 := ⟨k - 1, by omega⟩
  have hcount : s.cacheStallRemaining.toNat = 4 := by rw [hfour]; rfl
  rw [stepN_afterGates n ((running_iff s).mp h).1 (by omega) (by omega), afterGates, hcount]

/-! ## What moves `pc` -/

theorem finishCycle_pc {u : State} (hs : u.out.stalled = false) :
    (finishCycle u).pc = u.pc ∨ (finishCycle u).pc = u.pc + 1#9 := by
  rcases finishCycle_pr_cases hs with ⟨hpc, _⟩ | ⟨hpc, _⟩ | ⟨_, _, hpc, _⟩
  · exact .inl hpc
  · exact .inl hpc
  · exact .inr hpc

/-- Settles O37: the advance after an execute step that moved `pc` only if it was a JMP's. -/
theorem onlyTheAdvanceAndJumpMovePc : Obligations.OnlyTheAdvanceAndJumpMovePc := by
  intro s t h
  rcases step_cases h with ⟨_, rfl⟩ | ⟨_, _, rfl⟩ | ⟨_, _, _, rfl⟩ | ⟨_, _, _, _, rfl⟩ | ⟨hs, hcap, hg, hx, rfl⟩
  · exact .inl rfl
  · exact .inl rfl
  · exact .inl rfl
  · rcases finishCycle_pc (u := beginCycle s) rfl with hpc | hpc
    · exact .inl hpc
    · exact .inr (.inl hpc)
  · have hadvance := finishCycle_pc (executedState_stalled s)
    rcases after_pc_valid s.pr.instr (clearReady (beginCycle s)) with ⟨hpc, _⟩ | ⟨o, a, hjmp, hpc, _⟩
    · have hpc : (executedState s).pc = s.pc := hpc
      rw [hpc] at hadvance
      rcases hadvance with hadvance | hadvance
      · exact .inl hadvance
      · exact .inr (.inl hadvance)
    · have hpc : (executedState s).pc = a.setWidth 9 := hpc
      rw [hpc] at hadvance
      exact .inr (.inr ⟨(executing_iff s).mpr ⟨hs, hcap, hg, hx⟩, o, a, hjmp, hadvance⟩)

/-! ## JMP and HALT -/

/-- Settles O32: the jump empties PR, so no hazard stands before the latch of the target. -/
theorem jumpLatchesItsTargetInTheSameCycle : Obligations.JumpLatchesItsTargetInTheSameCycle := by
  intro s operand a hexec hh hjmp
  have hstate : executedState s = retire (returnStall (jumpTo (clearReady (beginCycle s)) a) 0#3) := by
    rw [executedState, hjmp, after_jmp]
  have hfetch : ReachesFetch (executedState s) := by
    rw [hstate]
    exact ⟨rfl, rfl, hh⟩
  have hpc : (executedState s).pc = a.setWidth 9 := by rw [hstate]; rfl
  have hlt : (executedState s).pc.toNat < 256 := by
    rw [hpc, setWidth_toNat]
    exact a.isLt
  have hw : cellAt s.mem a = cellAt (executedState s).mem ((executedState s).pc.setWidth 8) := by
    rw [hpc, setWidth_setWidth, hstate]
    rfl
  refine ⟨_, step_executes hexec, ?_⟩
  rw [hfetch.latches hlt hw (hazard_of_invalid (by rw [hstate]; rfl) _), latchNext_pr, latchNext_pc, pc_add_one hlt,
    hpc, setWidth_setWidth, setWidth_toNat, hstate]
  simp [RegsKept, MemKept, FlagsKept]

/-- Settles O33: a HALT returns no stall, so its cycle drains PR and the state is terminated. -/
theorem haltTerminatesInItsCycle : Obligations.HaltTerminatesInItsCycle := by
  intro s operand imm hexec hhalt
  have hfault := fault_of_executing hexec
  have hstate : executedState s = retire (returnStall (setHalted (clearReady (beginCycle s))) 0#3) := by
    rw [executedState, hhalt, after_halt]
  have hdrain : finishCycle (executedState s) = drain (executedState s) :=
    finishCycle_of_halted (by rw [hstate]; rfl) (by rw [hstate]; rfl)
  have hterm : terminated (drain (executedState s)) = true :=
    (terminated_iff _).mpr ⟨by rw [hstate]; rfl, rfl, (executedState_fault s).trans hfault⟩
  refine ⟨_, (step_executes hexec).trans (congrArg _ hdrain), hterm, rfl, ?_, ?_, fun _ => ?_, fun _ => ?_, ⟨?_, ?_⟩,
    stepN_of_stuck (stuck_of_terminated hterm)⟩
  all_goals simp [hstate]

/-! ## A fetch past the end -/

/-- Settles O35: an instruction that is no JMP, no HALT and no miss leaves `pc` and lets the cycle reach the fetch. -/
theorem fetchPastTheEndRaisesOutOfBounds : Obligations.FetchPastTheEndRaisesOutOfBounds := by
  intro s h hg hpc hh
  have hge : 256 ≤ s.pc.toNat := hpc.ge
  refine ⟨fun hx => ?_, ?_⟩
  · rw [step_idles h hg hx, (reachesFetch_beginCycle hh).raises hge, beginCycle_pc, hpc]
  · rintro i hx rfl hjmp hhalt hmiss
    have hkept : (executedState s).pc = s.pc := by
      rcases after_pc_valid s.pr.instr (clearReady (beginCycle s)) with ⟨hkept, _⟩ | ⟨o, a, hinstr, _⟩
      · exact hkept
      · exact absurd hinstr (hjmp o a)
    have hfetch : ReachesFetch (executedState s) := by
      refine ⟨executedState_stalled s, ?_, (after_execKept hhalt (clearReady (beginCycle s))).1.trans hh⟩
      by_cases hacc : ∃ r a, s.pr.instr = .load r a ∨ s.pr.instr = .store r a
      · obtain ⟨r, a, hinstr⟩ := hacc
        have hnot : misses (clearReady (beginCycle s)) a = false := (misses_eq_false_iff s a).mpr (hmiss r a hinstr)
        rw [executedState, retire_out, after_access_stall hinstr, hnot]
        rfl
      · push Not at hacc
        exact after_stall_eq_zero hacc _
    refine ⟨_, exec_eq _ _, ?_, hkept⟩
    rw [step_executes (executing_of_running h hg hx), hfetch.raises (by rw [hkept]; exact hge), hkept, hpc]
    rfl

/-! ## A STORE to the next cell -/

theorem isLoad_of_instr {s : State} (hp : PrConsistent s) (hv : s.pr.valid = true) :
    s.pr.isLoad = isLoadOp s.pr.instr.opcode ∧ s.pr.destReg = s.pr.instr.operand := by
  obtain ⟨_, hload, hdest, _⟩ := hp hv
  rw [PipeReg.instr, opcode_instrOfFields, operand_instrOfFields]
  exact ⟨hload, hdest⟩

theorem valid_of_executing {s : State} (h : executing s = true) : s.pr.valid = true := by
  obtain ⟨_, _, _, hx⟩ := (executing_iff s).mp h
  simp only [toExecute, Bool.and_eq_true] at hx
  exact hx.1

theorem immOf_cellAt (m : Memory) (a : Addr) : immOf (cellAt m a) = memRead m a := extract_low_byte _ _

/-- The opcode and the operand of a cell are in its high byte, which no data write changes (R43). -/
theorem opcodeOf_cellAt_memWrite (m : Memory) (a b : Addr) (v : Byte) :
    opcodeOf (cellAt (memWrite m a v) b) = opcodeOf (cellAt m b) := by
  simp only [opcodeOf, cellAt, extract_high_nibble, readKey_codeKey_memWrite]

theorem operandOf_cellAt_memWrite (m : Memory) (a b : Addr) (v : Byte) :
    operandOf (cellAt (memWrite m a v) b) = operandOf (cellAt m b) := by
  simp only [operandOf, cellAt, extract_operand_nibble, readKey_codeKey_memWrite]

/-- Settles O34: the fetch reads memory after the write, and a STORE is no LOAD, so nothing stalls it. -/
theorem storeIsSeenByTheNextFetch : Obligations.StoreIsSeenByTheNextFetch := by
  intro s r a hexec hp hstore off hh hpc
  have hload : (executedState s).pr.isLoad = false := by
    obtain ⟨_, ⟨_, _, _, _, _, hkept, _⟩, _⟩ := after_keeps s.pr.instr (clearReady (beginCycle s))
    refine hkept.trans ((isLoad_of_instr hp (valid_of_executing hexec)).1.trans ?_)
    rw [hstore]
    rfl
  have hfetch : ReachesFetch (executedState s) := by
    refine ⟨executedState_stalled s, ?_, ?_⟩
    · have hnot : misses (clearReady (beginCycle s)) a = false := (misses_eq_false_iff s a).mpr (.inl off)
      rw [executedState, retire_out, after_access_stall (.inr hstore), hnot]
      rfl
    · rw [executedState, hstore]
      exact (dataWrite_halted _ a _).trans hh
  have hmem : (executedState s).mem = memWrite s.mem a (readReg s r) := by
    rw [executedState, hstore]
    exact dataWrite_mem _ a _
  have hpc' : (executedState s).pc = a.setWidth 9 := by
    rw [executedState, hstore]
    exact (dataWrite_pc _ a _).trans hpc
  have hlt : (executedState s).pc.toNat < 256 := by
    rw [hpc', setWidth_toNat]
    exact a.isLt
  refine ⟨_, step_executes hexec, ?_⟩
  rw [hfetch.latches hlt rfl (hazard_of_not_load hload _), latchNext_pr, hpc', setWidth_setWidth, hmem]
  exact ⟨rfl, rfl, (immOf_cellAt _ a).trans (memRead_memWrite_same _ a _), opcodeOf_cellAt_memWrite _ a a _,
    operandOf_cellAt_memWrite _ a a _⟩

end Sys2Proof.Proofs

/-! PROOFS. The cycles of a LOAD or STORE (43_pipeline_cycle.md R131, R133, R137, R139): a miss holds it through four
gate cycles and a resume cycle; a load-use pair is resolved in its own cycle or in that resume cycle, by one
argument. -/

namespace Sys2Proof.Proofs

open Sys2Proof Sys2Proof.Machine Sys2Proof.Laws

theorem memKept_of_mem {s t : State} (h : t.mem = s.mem) : MemKept s t := fun k => by rw [h]

/-! ## After the execute step of an access -/

/-- The instruction is a LOAD or STORE of address `a` (R110, R111). -/
def Accesses (i : Instr) (r : Sel) (a : Addr) : Prop := i = .load r a ∨ i = .store r a

theorem executedState_control (s : State) : ControlKept s (executedState s) :=
  (after_keeps s.pr.instr (clearReady (beginCycle s))).1

theorem executedState_params (s : State) : (executedState s).params = s.params := by
  obtain ⟨_, _, _, _, hparams⟩ := executedState_control s
  exact hparams

theorem after_instr (i : Instr) (s : State) : (after i s).pr.instr = s.pr.instr := by
  obtain ⟨_, ⟨_, hopcode, hoperand, himm, _⟩, _⟩ := after_keeps i s
  simp only [PipeReg.instr, hopcode, hoperand, himm]

theorem executedState_instr (s : State) : (executedState s).pr.instr = s.pr.instr :=
  after_instr s.pr.instr (clearReady (beginCycle s))

theorem executedState_fwdActive (s : State) : (executedState s).out.fwdActive = false := by
  obtain ⟨_, _, _, hactive, _⟩ := after_keeps s.pr.instr (clearReady (beginCycle s))
  exact hactive

/-- An access leaves `pc`, PR's validity and `halted`. -/
theorem executedState_of_access {s : State} {r : Sel} {a : Addr} (h : Accesses s.pr.instr r a) :
    (executedState s).pc = s.pc ∧ (executedState s).pr.valid = s.pr.valid ∧ (executedState s).halted = s.halted := by
  have hjmp : ∀ o b, s.pr.instr ≠ .jmp o b := by rcases h with h | h <;> simp [h]
  have hhalt : ∀ o m, s.pr.instr ≠ .halt o m := by rcases h with h | h <;> simp [h]
  rcases after_pc_valid s.pr.instr (clearReady (beginCycle s)) with ⟨hpc, hv⟩ | ⟨o, b, hinstr, _⟩
  · exact ⟨hpc, hv, (after_execKept hhalt (clearReady (beginCycle s))).1⟩
  · exact absurd hinstr (hjmp o b)

theorem executedState_stall_of_access {s : State} {r : Sel} {a : Addr} (h : Accesses s.pr.instr r a) :
    (executedState s).out.stall = if misses s a = true then 4#3 else 0#3 :=
  after_access_stall h (clearReady (beginCycle s))

/-- An execute step that stalls has counted its miss (R53). -/
theorem executedState_miss_counted {s : State} (h : (executedState s).out.stall = 4#3) :
    (executedState s).ctr.cacheMisses = s.ctr.cacheMisses + 1 ∧
    (executedState s).ctr.cacheStallCycles = s.ctr.cacheStallCycles + 4 := by
  rcases after_stall_cases s.pr.instr (clearReady (beginCycle s)) with ⟨hzero, _⟩ | ⟨_, hm, hs, _⟩
  · exact absurd (h.symm.trans hzero) (by decide)
  · exact ⟨hm, hs⟩

/-- R110: what the execute step of a LOAD has written. -/
theorem executedState_of_load {s : State} {r : Sel} {a : Addr} (h : s.pr.instr = .load r a) :
    ResultWritten r (dataRead s a).data (clearReady (beginCycle s)) (executedState s) ∧
    (executedState s).mdr = (dataRead s a).data ∧ (executedState s).mem = s.mem ∧
    RegsKeptExcept r s (executedState s) := by
  have hdata : (dataRead (setMar (clearReady (beginCycle s)) a) a).data = (dataRead s a).data :=
    (dataRead_data _ a).trans (dataRead_data s a).symm
  rw [executedState, h, ← hdata]
  refine ⟨after_load_written r a _, rfl, dataRead_mem _ a, fun q hq => ?_⟩
  rcases after_reg_cases (.load r a) (clearReady (beginCycle s)) q with hsame | ⟨hop, _⟩
  · exact hsame
  · exact absurd hop.symm hq

/-- R111: what the execute step of a STORE has written. -/
theorem executedState_of_store {s : State} {r : Sel} {a : Addr} (h : s.pr.instr = .store r a) :
    (executedState s).mdr = readReg s r ∧ RegsKept s (executedState s) ∧
    (executedState s).mem = memWrite s.mem a (readReg s r) := by
  rw [executedState, h]
  refine ⟨?_, fun q => ?_, ?_⟩ <;> simp [after_store]

/-! ## The cycles of a miss -/

/-- The state a miss leaves before its resume cycle: executed, the stall recorded and run down (R131, R133). -/
def missedState (s : State) : State := afterGates 4 (recordStall (executedState s))

@[simp] theorem afterGates_regs (k : Nat) (s : State) : (afterGates k s).regs = s.regs := rfl
@[simp] theorem afterGates_pc (k : Nat) (s : State) : (afterGates k s).pc = s.pc := rfl
@[simp] theorem afterGates_halted (k : Nat) (s : State) : (afterGates k s).halted = s.halted := rfl
@[simp] theorem afterGates_mdr (k : Nat) (s : State) : (afterGates k s).mdr = s.mdr := rfl
@[simp] theorem afterGates_fwdEn (k : Nat) (s : State) : (afterGates k s).fwdEn = s.fwdEn := rfl
@[simp] theorem afterGates_fault (k : Nat) (s : State) : (afterGates k s).fault = s.fault := rfl
@[simp] theorem afterGates_pr (k : Nat) (s : State) : (afterGates k s).pr = s.pr := rfl
@[simp] theorem afterGates_mem (k : Nat) (s : State) : (afterGates k s).mem = s.mem := rfl
@[simp] theorem afterGates_params (k : Nat) (s : State) : (afterGates k s).params = s.params := rfl
@[simp] theorem afterGates_out (k : Nat) (s : State) : (afterGates k s).out = CycleOut.clear := rfl
@[simp] theorem afterGates_cacheStallRemaining (k : Nat) (s : State) :
    (afterGates k s).cacheStallRemaining = BitVec.ofNat 3 (s.cacheStallRemaining.toNat - k) := rfl
@[simp] theorem afterGates_ctr (k : Nat) (s : State) :
    (afterGates k s).ctr = { s.ctr with cycles := s.ctr.cycles + k } := rfl

@[simp] theorem missedState_regs (s : State) : (missedState s).regs = (executedState s).regs := by simp [missedState]
@[simp] theorem missedState_pc (s : State) : (missedState s).pc = (executedState s).pc := by simp [missedState]
@[simp] theorem missedState_halted (s : State) : (missedState s).halted = (executedState s).halted := by
  simp [missedState]
@[simp] theorem missedState_mdr (s : State) : (missedState s).mdr = (executedState s).mdr := by simp [missedState]
@[simp] theorem missedState_fwdEn (s : State) : (missedState s).fwdEn = (executedState s).fwdEn := by simp [missedState]
@[simp] theorem missedState_fault (s : State) : (missedState s).fault = (executedState s).fault := by simp [missedState]
@[simp] theorem missedState_pr (s : State) : (missedState s).pr = (executedState s).pr := by simp [missedState]
@[simp] theorem missedState_mem (s : State) : (missedState s).mem = (executedState s).mem := by simp [missedState]
@[simp] theorem missedState_params (s : State) : (missedState s).params = (executedState s).params := by
  simp [missedState]
@[simp] theorem missedState_ctr (s : State) : (missedState s).ctr =
    { (executedState s).ctr with cycles := (executedState s).ctr.cycles + 4 } := by simp [missedState]

theorem readReg_missedState (s : State) (q : Sel) : readReg (missedState s) q = readReg (executedState s) q :=
  readReg_congr (missedState_regs s) q

theorem toExecute_beginCycle (s : State) : toExecute (beginCycle s) = toExecute s := rfl

theorem toExecute_missedState (s : State) : toExecute (missedState s) = false := by
  rw [toExecute, missedState_pr, executedState_executed, Bool.not_true, Bool.and_false]

section Miss

variable {s : State} {r : Sel} {a : Addr}

theorem stall_of_miss (hacc : Accesses s.pr.instr r a) (hmiss : misses s a = true) :
    (executedState s).out.stall = 4#3 := by
  rw [executedState_stall_of_access hacc, if_pos hmiss]

/-- PR keeps the instruction, so the run goes on. -/
theorem stuck_of_access (hexec : executing s = true) (hacc : Accesses s.pr.instr r a) :
    stuck (recordStall (executedState s)) = false := by
  obtain ⟨_, hvalid, _⟩ := executedState_of_access hacc
  exact (stuck_eq_false_iff _).mpr ⟨(executedState_fault s).trans (fault_of_executing hexec),
    .inr (hvalid.trans (valid_of_executing hexec))⟩

theorem stuck_missedState (hexec : executing s = true) (hacc : Accesses s.pr.instr r a) :
    stuck (missedState s) = false := by
  obtain ⟨_, hvalid, _⟩ := executedState_of_access hacc
  rw [stuck_eq_false_iff, missedState_fault, missedState_pr, executedState_fault, hvalid]
  exact ⟨fault_of_executing hexec, .inr (valid_of_executing hexec)⟩

theorem missedState_countdown (hstall : (executedState s).out.stall = 4#3) :
    (missedState s).cacheStallRemaining = 0#3 := by
  simp [missedState, hstall]

theorem missedState_cycles (s : State) : (missedState s).ctr.cycles = s.ctr.cycles + 5 := by
  rw [missedState_ctr, executedState_cycles]

variable (hexec : executing s = true) (hacc : Accesses s.pr.instr r a) (hmiss : misses s a = true)
include hexec hacc hmiss

/-- The cycle that executes the miss records its stall. -/
theorem step_of_miss : step s = .next (recordStall (executedState s)) := by
  rw [step_executes hexec, finishCycle_of_stall]
  rw [stall_of_miss hacc hmiss]
  decide

theorem stepN_of_miss {k : Nat} (hk : k < 4) (hcap : s.ctr.cycles + 6 ≤ s.params.maxCycles) :
    stepN (k + 2) s = .next (afterGates (k + 1) (recordStall (executedState s))) := by
  have hparams := executedState_params s
  rw [stepN_succ (step_of_miss hexec hacc hmiss)]
  refine stepN_afterGates k (stuck_of_access hexec hacc) ?_ ?_
  · rw [recordStall_ctr, recordStall_params, executedState_cycles, hparams]
    omega
  · rw [recordStall_cacheStallRemaining, stall_of_miss hacc hmiss]
    exact hk

/-- The resume cycle executes nothing and goes on from step 3. -/
theorem stepN_resume (hcap : s.ctr.cycles + 6 ≤ s.params.maxCycles) :
    stepN 6 s = .next (finishCycle (beginCycle (missedState s))) := by
  have hparams : (missedState s).params = s.params := (missedState_params s).trans (executedState_params s)
  have hrunning : running (missedState s) = true := by
    refine (running_iff _).mpr ⟨stuck_missedState hexec hacc, ?_⟩
    rw [missedState_cycles, hparams]
    omega
  have hresume := step_idles hrunning (missedState_countdown (stall_of_miss hacc hmiss))
    (toExecute_missedState s)
  rw [stepN_add 1 (stepN_of_miss hexec hacc hmiss (k := 3) (by decide) hcap)]
  exact stepN_succ hresume

end Miss

/-! ## The hazard of an access -/

/-- The consistency of PR is a property of PR alone. -/
theorem prConsistent_congr {s t : State} (h : t.pr = s.pr) (hp : PrConsistent s) : PrConsistent t := by
  unfold PrConsistent
  rwa [h]

theorem hazard_of_load {u : State} {r : Sel} {a : Addr} (hp : PrConsistent u) (hv : u.pr.valid = true)
    (hinstr : u.pr.instr = .load r a) (w : Word) : hazard u w = needs w r := by
  obtain ⟨hload, hdest⟩ := isLoad_of_instr hp hv
  rw [hinstr] at hload hdest
  rw [hazard, hv, hload, hdest]
  rfl

theorem hazard_of_store {u : State} {r : Sel} {a : Addr} (hp : PrConsistent u) (hv : u.pr.valid = true)
    (hinstr : u.pr.instr = .store r a) (w : Word) : hazard u w = false := by
  obtain ⟨hload, _⟩ := isLoad_of_instr hp hv
  rw [hinstr] at hload
  exact hazard_of_not_load hload w

/-- A cycle that reaches the fetch with its execute step done, at the `pc` of `s`. -/
structure AtFetch (s u : State) (w : Word) : Prop where
  reaches    : ReachesFetch u
  consistent : PrConsistent u
  executed   : toExecute u = false
  valid      : u.pr.valid = true
  pc         : u.pc = s.pc
  inRange    : s.pc.toNat < 256
  fwdEn      : u.fwdEn = s.fwdEn
  word       : w = cellAt u.mem (s.pc.setWidth 8)

section AtFetch

variable {s u : State} {w : Word}

theorem AtFetch.cell (h : AtFetch s u w) : w = cellAt u.mem (u.pc.setWidth 8) := by rw [h.pc, h.word]

theorem AtFetch.lt (h : AtFetch s u w) : u.pc.toNat < 256 := by rw [h.pc]; exact h.inRange

theorem AtFetch.finishCycle_of_forward (h : AtFetch s u w) (hz : hazard u w = true) (hf : s.fwdEn = true) :
    finishCycle u = latchNext (recordForward u u.pr.resultValue) w :=
  h.reaches.forwards h.lt h.cell hz (forward_of_hazard h.consistent h.executed (h.fwdEn.trans hf) hz)

theorem AtFetch.finishCycle_of_bubble (h : AtFetch s u w) (hz : hazard u w = true) (hf : s.fwdEn = false) :
    finishCycle u = insertBubble u :=
  h.reaches.bubbles h.lt h.cell hz (forward_of_disabled (h.fwdEn.trans hf) _)

theorem AtFetch.latches (h : AtFetch s u w) (hz : hazard u w = false ∨ s.fwdEn = true) :
    Latches s (finishCycle u) w := by
  cases hhazard : hazard u w with
  | false =>
    rw [h.reaches.latches h.lt h.cell hhazard]
    exact latches_latchNext h.pc h.inRange h.reaches.stalled w
  | true =>
    rw [h.finishCycle_of_forward hhazard (hz.resolve_left (by simp [hhazard]))]
    exact latches_latchNext (u := recordForward u u.pr.resultValue) h.pc h.inRange h.reaches.stalled w

theorem AtFetch.bubbles (h : AtFetch s u w) (hz : hazard u w = true) (hf : s.fwdEn = false) :
    Bubbles s (finishCycle u) := by
  rw [h.finishCycle_of_bubble hz hf]
  exact ⟨rfl, h.pc, rfl⟩

/-- R137, R139: a load-use pair at the fetch, wherever the cycle came from. -/
theorem AtFetch.loadUseResolved (h : AtFetch s u w) (hz : hazard u w = true)
    (hforwards : u.ctr.forwards = s.ctr.forwards) (hstalls : u.ctr.hazardStalls = s.ctr.hazardStalls)
    (hactive : u.out.fwdActive = false) (hgate : u.cacheStallRemaining = 0#3) (hfault : u.fault = none)
    (hcap : u.ctr.cycles < u.params.maxCycles) :
    LoadUseResolved s (finishCycle u) u.pr.destReg u.pr.resultValue w := by
  refine ⟨fun hf => ?_, fun hf => ?_⟩
  · have hlatches := h.latches (.inr hf)
    rw [h.finishCycle_of_forward hz hf] at hlatches ⊢
    refine ⟨?_, ?_, ?_, ?_, ?_, hlatches⟩ <;> simp [hforwards, hstalls]
  · have hbubbles := h.bubbles hz hf
    rw [h.finishCycle_of_bubble hz hf] at hbubbles ⊢
    have hrun : running (insertBubble u) = true :=
      (running_iff _).mpr ⟨(stuck_eq_false_iff _).mpr ⟨hfault, .inl h.reaches.halted⟩, hcap⟩
    have hnext := step_latches hrun hgate rfl h.reaches.halted h.lt
    rw [insertBubble_mem, insertBubble_pc, ← h.cell] at hnext
    refine ⟨?_, ?_, ?_, hbubbles, _, hnext, latches_latchNext ?_ h.lt ?_ w, ?_, fun q => ?_, fun k => ?_⟩
    all_goals simp [hforwards, hstalls, hactive]

end AtFetch

/-- The resume cycle of a miss reaches the fetch as the cycle of a hit would. -/
theorem atFetch_of_miss {s : State} {r : Sel} {a : Addr} {w : Word} (hexec : executing s = true)
    (hacc : Accesses s.pr.instr r a) (hp : PrConsistent s) (hh : s.halted = false) (hpc : s.pc.toNat < 256)
    (hw : w = cellAt (missedState s).mem (s.pc.setWidth 8)) : AtFetch s (beginCycle (missedState s)) w := by
  obtain ⟨hkept, hvalid, hhalted⟩ := executedState_of_access hacc
  have hpr : (beginCycle (missedState s)).pr = (executedState s).pr := by rw [beginCycle_pr, missedState_pr]
  obtain ⟨hfwd, _⟩ := executedState_control s
  exact
    { reaches := reachesFetch_beginCycle (by rw [missedState_halted, hhalted, hh])
      consistent := prConsistent_congr hpr (executedState_prConsistent hp)
      executed := by rw [toExecute_beginCycle, toExecute_missedState]
      valid := by rw [hpr, hvalid, valid_of_executing hexec]
      pc := by rw [beginCycle_pc, missedState_pc, hkept]
      inRange := hpc
      fwdEn := by rw [beginCycle_fwdEn, missedState_fwdEn, hfwd]
      word := by rw [beginCycle_mem, hw] }

/-- The cycle of an access that does not miss reaches the fetch. -/
theorem atFetch_of_hit {s : State} {r : Sel} {a : Addr} {w : Word} (hexec : executing s = true)
    (hacc : Accesses s.pr.instr r a) (hmiss : misses s a = false) (hp : PrConsistent s) (hh : s.halted = false)
    (hpc : s.pc.toNat < 256) (hw : w = cellAt (executedState s).mem (s.pc.setWidth 8)) :
    AtFetch s (executedState s) w := by
  obtain ⟨hkept, hvalid, hhalted⟩ := executedState_of_access hacc
  have hstall : (executedState s).out.stall = 0#3 := by
    rw [executedState_stall_of_access hacc, hmiss]
    rfl
  exact ⟨⟨executedState_stalled s, hstall, hhalted.trans hh⟩, executedState_prConsistent hp, toExecute_executedState s,
    hvalid.trans (valid_of_executing hexec), hkept, hpc, (executedState_control s).1, hw⟩

/-! ## The six cycles of a miss -/

section Six

variable {s : State} {r : Sel} {a : Addr} (hacc : Accesses s.pr.instr r a) (hmiss : misses s a = true)
include hacc hmiss

/-- The first five cycles: executed and counted once, with `pc` and the instruction kept. -/
theorem missedState_counts :
    (missedState s).ctr.cycles = s.ctr.cycles + 5 ∧ (missedState s).ctr.instructions = s.ctr.instructions + 1 ∧
    (missedState s).ctr.cacheMisses = s.ctr.cacheMisses + 1 ∧
    (missedState s).ctr.cacheStallCycles = s.ctr.cacheStallCycles + 4 ∧
    (missedState s).cacheStallRemaining = 0#3 ∧ (missedState s).pc = s.pc ∧ (missedState s).pr.instr = s.pr.instr ∧
    toExecute (missedState s) = false := by
  have hstall := stall_of_miss hacc hmiss
  obtain ⟨hmisses, hstalls⟩ := executedState_miss_counted hstall
  obtain ⟨hpc, _⟩ := executedState_of_access hacc
  refine ⟨missedState_cycles s, ?_, ?_, ?_, missedState_countdown hstall, ?_, ?_, toExecute_missedState s⟩
  · rw [missedState_ctr, executedState_instructions]
  · rw [missedState_ctr, hmisses]
  · rw [missedState_ctr, hstalls]
  · rw [missedState_pc, hpc]
  · rw [missedState_pr, executedState_instr]

/-- The resume cycle: one cycle more and no instruction or miss, values kept. -/
theorem resume_counts :
    (finishCycle (beginCycle (missedState s))).ctr.cycles = s.ctr.cycles + 6 ∧
    (finishCycle (beginCycle (missedState s))).ctr.instructions = s.ctr.instructions + 1 ∧
    (finishCycle (beginCycle (missedState s))).ctr.cacheMisses = s.ctr.cacheMisses + 1 ∧
    (finishCycle (beginCycle (missedState s))).cacheStallRemaining = 0#3 ∧
    RegsKept (missedState s) (finishCycle (beginCycle (missedState s))) ∧
    MemKept (missedState s) (finishCycle (beginCycle (missedState s))) := by
  obtain ⟨hcycles, hinstructions, hmisses, _, hcountdown, _⟩ := missedState_counts hacc hmiss
  obtain ⟨hcycles', hinstructions', _, _, hmisses', _⟩ := finishCycle_counters (beginCycle (missedState s))
  refine ⟨?_, hinstructions'.trans hinstructions, hmisses'.trans hmisses, ?_, fun q => ?_, fun k => ?_⟩
  · rw [hcycles', beginCycle_ctr, hcycles]
  · rw [finishCycle_countdown, if_pos (by rfl), beginCycle_cacheStallRemaining, hcountdown]
  · rw [readReg_finishCycle, readReg_beginCycle]
  · rw [finishCycle_mem, beginCycle_mem]

end Six

/-- R57 for a miss: the byte read is memory's. -/
theorem dataRead_data_of_miss {s : State} {a : Addr} (h : misses s a = true) :
    (dataRead s a).data = memRead s.mem a := by
  obtain ⟨_, hhit⟩ := (misses_iff s a).mp h
  rw [dataRead_data, if_neg (by simp [hhit])]

/-- Settles O28: the execute step, four gate cycles, and a resume cycle that is steps 3 to 6 alone. -/
theorem missHoldsTheLoadFiveMoreCycles : Obligations.MissHoldsTheLoadFiveMoreCycles := by
  rintro s i r a hexec rfl hacc on hhit hcap
  have hmiss : misses s a = true := (misses_iff s a).mpr ⟨on, hhit⟩
  obtain ⟨hpc, _, hhalted⟩ := executedState_of_access hacc
  have hkept : (beginCycle (missedState s)).pc = s.pc := by rw [beginCycle_pc, missedState_pc, hpc]
  have hhalted' : (missedState s).halted = s.halted := by rw [missedState_halted, hhalted]
  refine ⟨missedState s, finishCycle (beginCycle (missedState s)), stepN_of_miss hexec hacc hmiss (by decide) hcap,
    stepN_resume hexec hacc hmiss hcap, missedState_counts hacc hmiss, fun hload => ?_, fun hstore => ?_,
    resume_counts hacc hmiss, fun hh => ?_, fun hh hge => ?_, fun hh hlt hp w hw => ?_⟩
  · obtain ⟨⟨hwritten, _⟩, hmdr, hmem, hregs⟩ := executedState_of_load hload
    rw [dataRead_data_of_miss hmiss] at hwritten hmdr
    exact ⟨(missedState_mdr s).trans hmdr, memKept_of_mem ((missedState_mem s).trans hmem),
      fun q hq => (readReg_missedState s q).trans (hregs q hq),
      fun hr => (readReg_missedState s r).trans (hwritten hr).1⟩
  · obtain ⟨hmdr, hregs, hmem⟩ := executedState_of_store hstore
    rw [missedState_mem, missedState_mdr, hmem]
    exact ⟨hmdr, fun q => (readReg_missedState s q).trans (hregs q), memRead_memWrite_same _ _ _,
      fun k hk => readKey_writeKey_other _ _ hk⟩
  · rw [finishCycle_of_halted (u := beginCycle (missedState s)) rfl (by rw [beginCycle_halted, hhalted', hh])]
    exact ⟨rfl, hkept⟩
  · have hfetch := reachesFetch_beginCycle (hhalted'.trans hh)
    rw [hfetch.raises (by rw [hkept]; exact hge), hkept]
    exact ⟨rfl, rfl, hkept⟩
  · have hat := atFetch_of_miss hexec hacc hp hh hlt hw
    have hinstr : (beginCycle (missedState s)).pr.instr = s.pr.instr := by
      rw [beginCycle_pr, missedState_pr, executedState_instr]
    refine ⟨fun hcase => hat.latches ?_, fun hload hneeds hf => hat.bubbles ?_ hf⟩
    · rcases hacc with hload | hstore
      · rw [hazard_of_load hat.consistent hat.valid (hinstr.trans hload)]
        exact hcase.resolve_left (by simp [hload])
      · exact .inl (hazard_of_store hat.consistent hat.valid (hinstr.trans hstore) w)
    · rw [hazard_of_load hat.consistent hat.valid (hinstr.trans hload), hneeds]

/-! ## A load-use pair -/

/-- PR shows the LOAD's register and the byte it delivered. -/
theorem executedState_shows_load {s : State} {r : Sel} {a : Addr} (hexec : executing s = true) (hp : PrConsistent s)
    (hload : s.pr.instr = .load r a) :
    (executedState s).pr.destReg = r ∧ (executedState s).pr.resultValue = (dataRead s a).data := by
  obtain ⟨⟨_, _, _, hvalue, _⟩, _⟩ := executedState_of_load hload
  obtain ⟨_, hkept, _⟩ := executedState_of_access (.inl hload)
  obtain ⟨_, hdest⟩ := isLoad_of_instr (executedState_prConsistent hp) (hkept.trans (valid_of_executing hexec))
  rw [executedState_instr, hload] at hdest
  exact ⟨hdest, hvalue⟩

/-- None of the first five cycles of a miss forwards or stalls on a hazard. -/
theorem quiet_before_resume {s : State} {r : Sel} {a : Addr} (hexec : executing s = true)
    (hacc : Accesses s.pr.instr r a) (hmiss : misses s a = true) (hcap : s.ctr.cycles + 6 ≤ s.params.maxCycles)
    {k : Nat} (hk : 1 ≤ k) (hk5 : k ≤ 5) :
    ∃ u : State, stepN k s = .next u ∧ u.ctr.forwards = s.ctr.forwards ∧
      u.ctr.hazardStalls = s.ctr.hazardStalls ∧ u.out.fwdActive = false ∧ u.out.stalled = false := by
  obtain ⟨hstalls, hforwards, _⟩ := executedState_hazard_counters s
  obtain rfl | ⟨n, rfl⟩ : k = 1 ∨ ∃ n, k = n + 2 := by
    rcases Nat.lt_or_ge k 2 with h | h
    · exact .inl (by omega)
    · exact .inr ⟨k - 2, by omega⟩
  · refine ⟨_, stepN_succ (step_of_miss hexec hacc hmiss), ?_⟩
    exact ⟨hforwards, hstalls, executedState_fwdActive s, executedState_stalled s⟩
  · refine ⟨_, stepN_of_miss hexec hacc hmiss (by omega) hcap, ?_⟩
    simp [hforwards, hstalls]

/-- Settles O31: the load-use pair is at the fetch of the LOAD's own cycle, or of the resume cycle of its miss. -/
theorem loadUseForwardsOrStallsOnce : Obligations.LoadUseForwardsOrStallsOnce := by
  intro s r a w d hexec hp hload hh hlt hw hneeds hd
  have hacc : Accesses s.pr.instr r a := .inl hload
  have hd : (dataRead s a).data = d := (dataRead_data s a).trans hd.symm
  obtain ⟨hdest, hvalue⟩ := executedState_shows_load hexec hp hload
  obtain ⟨_, hmdr, hmem, _⟩ := executedState_of_load hload
  obtain ⟨hstalls, hforwards, _⟩ := executedState_hazard_counters s
  obtain ⟨_, _, hcountdown, hfault, hparams⟩ := executedState_control s
  have hfault := hfault.trans (fault_of_executing hexec)
  have hgate := hcountdown.trans (countdown_of_executing hexec)
  rw [hd] at hmdr hvalue
  refine ⟨fun hnot hcap => ?_, fun on hhit hcap => ?_⟩
  · have hat := atFetch_of_hit hexec hacc ((misses_eq_false_iff s a).mpr hnot) hp hh hlt (hw.trans (by rw [hmem]))
    have hz := hazard_of_load hat.consistent hat.valid ((executedState_instr s).trans hload) w
    obtain ⟨hcycles, hinstructions, _⟩ := finishCycle_counters (executedState s)
    have hresolved := hat.loadUseResolved (hz.trans hneeds) hforwards hstalls (executedState_fwdActive s) hgate hfault
      (by rw [executedState_cycles, hparams]; omega)
    rw [hdest, hvalue] at hresolved
    exact ⟨_, step_executes hexec, hcycles.trans (executedState_cycles s),
      hinstructions.trans (executedState_instructions s), (finishCycle_mdr _).trans hmdr, hresolved⟩
  · have hmiss : misses s a = true := (misses_iff s a).mpr ⟨on, hhit⟩
    refine ⟨fun k hk hk5 => quiet_before_resume hexec hacc hmiss (by omega) hk hk5, ?_⟩
    have hat := atFetch_of_miss hexec hacc hp hh hlt (hw.trans (by rw [missedState_mem, hmem]))
    have hinstr : (beginCycle (missedState s)).pr.instr = .load r a := by
      rw [beginCycle_pr, missedState_pr, executedState_instr, hload]
    have hz := hazard_of_load hat.consistent hat.valid hinstr w
    obtain ⟨hcycles, hinstructions, _⟩ := resume_counts hacc hmiss
    have hcap' : (beginCycle (missedState s)).ctr.cycles < (beginCycle (missedState s)).params.maxCycles := by
      have hbegun : (beginCycle (missedState s)).ctr.cycles = s.ctr.cycles + 6 := by
        rw [beginCycle_ctr, missedState_cycles]
      rw [hbegun, beginCycle_params, missedState_params, hparams]
      omega
    have hresolved := hat.loadUseResolved (hz.trans hneeds) (by simp [hforwards]) (by simp [hstalls]) rfl
      (missedState_countdown (stall_of_miss hacc hmiss)) (by simp [hfault]) hcap'
    rw [beginCycle_pr, missedState_pr, hdest, hvalue] at hresolved
    refine ⟨_, stepN_resume hexec hacc hmiss (by omega), hcycles, hinstructions, ?_, hresolved⟩
    rw [finishCycle_mdr, beginCycle_mdr, missedState_mdr, hmdr]

end Sys2Proof.Proofs
